-- ==== Sys2Proof/Word.lean ====
section
/-! DEFINITION. The data and address words of the block (spec/00_scope.md R5, R6). -/

namespace Sys2Proof

/-- A byte: DATA_WIDTH is 8 (R5); bit 7 is its most significant bit (R6). -/
abbrev Byte := BitVec 8

/-- A word: ADDR_WIDTH and PC_WIDTH are 16 (R5). Addition and subtraction on it are modulo 2^16 (R7). -/
abbrev Word := BitVec 16

end Sys2Proof
end

