-- ==== Sys2Proof/Syntax.lean ====
section
/-! DEFINITION. The instructions: one constructor per row of spec/opcode_table.json (spec/30_encoding.md R63, R64). -/

namespace Sys2Proof

/-- An instruction with its operands as R62 assembles them. The index register of an indexed mode is implied by the
constructor (R61). -/
inductive Instr where
  /-- `LDA #imm`, opcode 0xA9 (41_load.md R101). -/
  | ldaImm (imm : Byte)
  /-- `LDA zp`, opcode 0xA5 (R102). -/
  | ldaZp (zp : Byte)
  /-- `LDA zp,X`, opcode 0xB5 (R103). -/
  | ldaZpX (zp : Byte)
  /-- `LDA abs`, opcode 0xAD (R104). -/
  | ldaAbs (abs : Word)
  /-- `LDA abs,X`, opcode 0xBD (R105). -/
  | ldaAbsX (base : Word)
  /-- `LDA abs,Y`, opcode 0xB9 (R106). -/
  | ldaAbsY (base : Word)
  /-- `JSR abs`, opcode 0x20 (42_call.md R120). -/
  | jsr (target : Word)
  /-- Every other opcode byte (43_unrecognised.md R130), kept because its diagnostic reports it. -/
  | unrecognised (op : Byte)
  deriving DecidableEq, Repr

end Sys2Proof
end

