-- ==== Sys2Proof/Decode.lean ====
section
/-! DEFINITION. Decoder and encoder (spec/30_encoding.md R60 to R66), with the byte-order helpers they and the machine
use (spec/00_scope.md R6, spec/20_memory.md R45). -/

namespace Sys2Proof

/-- `zext_16(b)` (R7). -/
def zext16 (b : Byte) : Word := b.setWidth 16

/-- The word with low byte `lo` and high byte `hi`: `(hi << 8) | lo` (R6, little-endian R45, R62). -/
def wordOfBytes (lo hi : Byte) : Word := (zext16 hi <<< 8) ||| zext16 lo

/-- `w[7:0]` (R6). -/
def loByte (w : Word) : Byte := w.extractLsb' 0 8

/-- `w[15:8]` (R6). -/
def hiByte (w : Word) : Byte := w.extractLsb' 8 8

/-- The eight outcomes of decoding an opcode byte (R65): the seven of R63 and the unrecognised one of R64. -/
inductive Opcode where
  | ldaImm | ldaZp | ldaZpX | ldaAbs | ldaAbsX | ldaAbsY | jsr | unrecognised
  deriving DecidableEq, Repr

/-- The formats of R61. -/
inductive Format where
  | op | imm8 | zp8 | abs16
  deriving DecidableEq, Repr

/-- A row of the opcode table of R63. -/
structure OpcodeRow where
  code : Byte
  opcode : Opcode
  deriving DecidableEq, Repr

/-- The opcode table of R63 (values: 92_eei_decisions.md D1). -/
def opcodeTable : List OpcodeRow :=
  [ ⟨0xA9, .ldaImm⟩, ⟨0xA5, .ldaZp⟩, ⟨0xB5, .ldaZpX⟩, ⟨0xAD, .ldaAbs⟩,
    ⟨0xBD, .ldaAbsX⟩, ⟨0xB9, .ldaAbsY⟩, ⟨0x20, .jsr⟩ ]

/-- The outcome of an opcode byte: its row of R63, else unrecognised (R64). -/
def decodeOpcode (b : Byte) : Opcode :=
  match opcodeTable.find? (fun r => r.code == b) with
  | some r => r.opcode
  | none => .unrecognised

/-- The format of each instruction (R61). -/
def Opcode.format : Opcode → Format
  | .ldaImm => .imm8
  | .ldaZp => .zp8
  | .ldaZpX => .zp8
  | .ldaAbs => .abs16
  | .ldaAbsX => .abs16
  | .ldaAbsY => .abs16
  | .jsr => .abs16
  | .unrecognised => .op

/-- The length in bytes of each format (R61). -/
def Format.length : Format → Nat
  | .op => 1
  | .imm8 => 2
  | .zp8 => 2
  | .abs16 => 3

/-- The opcode an instruction decodes from. -/
def Instr.opcode : Instr → Opcode
  | .ldaImm _ => .ldaImm
  | .ldaZp _ => .ldaZp
  | .ldaZpX _ => .ldaZpX
  | .ldaAbs _ => .ldaAbs
  | .ldaAbsX _ => .ldaAbsX
  | .ldaAbsY _ => .ldaAbsY
  | .jsr _ => .jsr
  | .unrecognised _ => .unrecognised

/-- The length of an instruction in bytes (R60, R61). -/
def Instr.length (i : Instr) : Nat := i.opcode.format.length

/-- The instruction with opcode byte `op` followed by the bytes `b1`, `b2`, of which it uses as many as its format
has (R61, R62). Total: every byte value is an opcode (R65). -/
def assemble (op b1 b2 : Byte) : Instr :=
  match decodeOpcode op with
  | .ldaImm => .ldaImm b1
  | .ldaZp => .ldaZp b1
  | .ldaZpX => .ldaZpX b1
  | .ldaAbs => .ldaAbs (wordOfBytes b1 b2)
  | .ldaAbsX => .ldaAbsX (wordOfBytes b1 b2)
  | .ldaAbsY => .ldaAbsY (wordOfBytes b1 b2)
  | .jsr => .jsr (wordOfBytes b1 b2)
  | .unrecognised => .unrecognised op

/-- Why a list of bytes holds no whole instruction. No opcode byte is ever a reason (R66); memory never ends (R60),
so the machine's fetch meets neither. -/
inductive DecodeError where
  /-- There is no opcode byte. -/
  | noOpcode
  /-- The operand bytes of the opcode `op` are missing. -/
  | operandMissing (op : Byte)
  deriving DecidableEq, Repr

/-- The instruction at the head of a list of bytes, and the bytes after it. -/
def decode : List Byte → Except DecodeError (Instr × List Byte)
  | [] => .error .noOpcode
  | op :: rest =>
    let operands := (decodeOpcode op).format.length - 1
    if rest.length < operands then .error (.operandMissing op)
    else .ok (assemble op (rest.getD 0 0) (rest.getD 1 0), rest.drop operands)

/-- The bytes of an instruction, lowest address first (R61 to R63). -/
def encode : Instr → List Byte
  | .ldaImm imm => [0xA9, imm]
  | .ldaZp zp => [0xA5, zp]
  | .ldaZpX zp => [0xB5, zp]
  | .ldaAbs abs => [0xAD, loByte abs, hiByte abs]
  | .ldaAbsX base => [0xBD, loByte base, hiByte base]
  | .ldaAbsY base => [0xB9, loByte base, hiByte base]
  | .jsr target => [0x20, loByte target, hiByte target]
  | .unrecognised op => [op]

/-- The three bytes (the longest instruction, R65) of a word numbered as spec/opcode_table.json numbers bits: the
first byte is bits 7..0; every bit from `nbits` up is 0. -/
def tableWordBytes (nbits w : Nat) : List Byte :=
  let v := w % 2 ^ nbits
  [BitVec.ofNat 8 v, BitVec.ofNat 8 (v / 2 ^ 8), BitVec.ofNat 8 (v / 2 ^ 16)]

/-- What the decoder reads from such a word (none where it refuses). -/
def decodeTableWord (nbits w : Nat) : Option Instr :=
  match decode (tableWordBytes nbits w) with
  | .ok (i, _) => some i
  | .error _ => none

end Sys2Proof
end

