-- ==== Sys2Proof/Config.lean ====
section
/-! DEFINITION. The parameters of the block (spec/00_scope.md R5). RESET_PC and RESET_SP are OPEN there: an argument
of the model, with a default. The other rows of R5 are widths (fixed in the types) or fixed numbers. -/

namespace Sys2Proof.Config

/-- The OPEN parameters of R5: what Reset loads into PC and SP. -/
structure Params where
  resetPc : Word
  resetSp : Byte
  deriving DecidableEq, Repr

/-- The defaults of R5 (92_eei_decisions.md D2, D3), the values the spec's test vectors use.
DESIGN CHOICE (notes/assumptions/1.md, 2.md): the source gives no value; unsafe for a claim that rests on them. -/
def defaults : Params := { resetPc := 0xFFFC, resetSp := 0xFF }

/-- MEM_CAPACITY (R5, R40): addresses are 0 to 65535. -/
def memCapacity : Nat := 65536

/-- STACK_PAGE (R5, R26; 92_eei_decisions.md D4): the high byte of every stack address. -/
def stackPage : Byte := 0x01

end Sys2Proof.Config
end

