-- ==== Sys2Proof/Machine/State.lean ====
section
/-! DEFINITION. The state of the block (spec/10_state.md R20), why an operation can stop, and the state after Reset
(R35). -/

namespace Sys2Proof.Machine

/-- The operations the block offers its host, by name (spec/70_reset_and_hazards.md R174). -/
inductive OpName where
  | reset | execute | readReg | writeReg | readFlag | writeFlag | read | write | writeWord | initialise
  | readDiag | readFault
  deriving DecidableEq, Repr

/-- The block's faults (spec/60_exceptions.md R140). Both end the session (R142). -/
inductive Fault where
  /-- Code 1: a memory access at the address `addr` of 65536 or above. Raised by MemRead and MemWrite (so by the host's
  Read and Write) and by WriteWord at 0xFFFF and above; by no instruction (R141). Safe: the spec stops there too. -/
  | outOfBounds (addr : Nat)
  /-- Code 2: the operation `op` was attempted before the first Reset. Raised by every host operation but Reset,
  ReadDiag and ReadFault, and by a step, which is an Execute (R93). Safe: the spec stops there too. -/
  | useBeforeReset (op : OpName)
  deriving DecidableEq, Repr

/-- Why an operation has no step. -/
inductive Refusal where
  /-- exec has no meaning for the instruction. Raised by no arm of this model. Safe. -/
  | notModelled (mnemonic : String)
  /-- The session is Faulted: only ReadDiag and ReadFault have a step (R142, R144). Raised by every other operation and
  by a step. Safe: the spec gives no step either. -/
  | sessionFaulted (f : Fault)
  /-- A host write's value does not fit its target (R175). Raised by WriteReg, WriteFlag and Write. Safe: the spec
  refuses it too. -/
  | valueTooWide (op : OpName) (value : Nat)
  /-- ReadFault while no fault is recorded (R174 allows it in Faulted only). Safe: the spec gives no result either. -/
  | noFaultRecorded
  deriving DecidableEq, Repr

/-- The lifecycle of the core and its memory (R31). -/
inductive Session where
  | unreset
  | ready
  | faulted (f : Fault)
  deriving DecidableEq, Repr

/-- One event of the diagnostic log: an unrecognised opcode and its address (R32). -/
structure DiagEvent where
  opcodeAddress : Word
  opcode : Byte
  deriving DecidableEq, Repr

/-- The seven independent status flags (R27). There is no packed status byte (R28). -/
structure Flags where
  /-- Carry. -/
  c : Bool
  /-- Zero. -/
  z : Bool
  /-- Interrupt-disable: masks nothing (60_exceptions.md R143). -/
  i : Bool
  /-- Decimal. -/
  d : Bool
  /-- Break. -/
  b : Bool
  /-- Overflow. -/
  v : Bool
  /-- Negative. -/
  n : Bool
  deriving DecidableEq, Repr

/-- Memory as the list of the bytes that are not 0x00, by rising address (the form is `Memory.wf`). -/
abbrev Memory := List Host.Cell

/-- The state of the block (R20). -/
structure State where
  /-- Program counter: the address of the next byte fetched (R25). -/
  pc : Word
  /-- Stack pointer: an offset into the stack page (R26). -/
  sp : Byte
  /-- Accumulator (R21). -/
  a : Byte
  /-- Index register X (R22). -/
  x : Byte
  /-- Index register Y (R23). -/
  y : Byte
  /-- Status flags (R27). -/
  flags : Flags
  /-- The memory the core drives (R20, 20_memory.md R40). -/
  mem : Memory
  /-- Lifecycle (R31). -/
  session : Session
  /-- Diagnostic log, oldest event first (R32). -/
  diag : List DiagEvent
  /-- The cycle counter of the Execute that is running (40_fetch_execute.md R80); 0 between Executes.
  DESIGN CHOICE (notes/assumptions/3.md): R20 keeps it out of the tuple; safe, no instruction reads it. -/
  cycles : Int
  deriving DecidableEq, Repr

/-- Every flag 0. -/
def Flags.zero : Flags :=
  { c := false, z := false, i := false, d := false, b := false, v := false, n := false }

/-- What Reset leaves, for the parameters `p` and the log `diag` already emitted (R35). -/
def State.resetWith (p : Config.Params) (diag : List DiagEvent) : State :=
  { pc := p.resetPc, sp := p.resetSp, a := 0, x := 0, y := 0, flags := Flags.zero, mem := [],
    session := .ready, diag := diag, cycles := 0 }

/-- The machine right after its first Reset, at the default parameters: the S0 of spec/95_test_vectors.md. -/
def State.reset : State := State.resetWith Config.defaults []

end Sys2Proof.Machine
end

