-- ==== Sys2Proof/Machine/Memory.lean ====
section
/-! DEFINITION. Memory: its canonical form and its operations (spec/20_memory.md R40 to R46). Addresses are plain
numbers here, so that an address past the end can be named (R41). -/

namespace Sys2Proof.Machine

/-- What a byte no write has reached since the last Initialise reads as (R52, R43). -/
def Memory.unwritten : Byte := 0x00

/-- The canonical form: addresses strictly rise, lie inside the space (R40), and no entry holds what an unlisted address
reads as. -/
abbrev Memory.wf (m : Memory) : Prop :=
  m.Pairwise (fun c d => c.1 < d.1) ∧ ∀ c ∈ m, c.1 < Config.memCapacity ∧ c.2 ≠ Memory.unwritten

/-- The byte held at an address. -/
def Memory.get : Memory → Nat → Byte
  | [], _ => Memory.unwritten
  | (k, v) :: rest, addr => if k = addr then v else Memory.get rest addr

/-- The cells for a byte at an address: none where it is what an unlisted address reads as. -/
def Memory.cell (addr : Nat) (v : Byte) : List Host.Cell :=
  if v = Memory.unwritten then [] else [(addr, v)]

/-- Memory with the byte `v` at an address, in canonical form. -/
def Memory.set : Memory → Nat → Byte → Memory
  | [], addr, v => Memory.cell addr v
  | (k, w) :: rest, addr, v =>
    if addr < k then Memory.cell addr v ++ (k, w) :: rest
    else if addr = k then Memory.cell addr v ++ rest
    else (k, w) :: Memory.set rest addr v

/-- MemRead(addr, 1) (R41): bounds-checked; no side effect (R42). -/
def memRead (addr : Nat) (m : Memory) : Except Fault Byte :=
  if Config.memCapacity ≤ addr then .error (.outOfBounds addr) else .ok (m.get addr)

/-- MemWrite(addr, 1, v) (R41). -/
def memWrite (addr : Nat) (v : Byte) (m : Memory) : Except Fault Memory :=
  if Config.memCapacity ≤ addr then .error (.outOfBounds addr) else .ok (m.set addr v)

/-- Initialise() (R43): every byte 0x00. -/
def initialise : Memory := []

/-- WriteWord(cycles, value, address) (R44): both addresses are checked before either byte is written; low byte first;
2 cycles off the caller's counter. -/
def writeWord (cycles : Int) (value : Word) (addr : Nat) (m : Memory) : Except Fault (Memory × Int) :=
  if Config.memCapacity ≤ addr then .error (.outOfBounds addr)
  else if Config.memCapacity ≤ addr + 1 then .error (.outOfBounds (addr + 1))
  else .ok ((m.set addr (loByte value)).set (addr + 1) (hiByte value), cycles - 2)

end Sys2Proof.Machine
end

