-- ==== Sys2Proof/Machine/Ops.lean ====
section
/-! DEFINITION. The named operations over registers, memory and the cycle counter: writes of one field, the
cycle-debiting primitives (spec/40_fetch_execute.md R81 to R84), raising a fault (spec/60_exceptions.md R142) and the
session check every operation makes first (R144). -/

namespace Sys2Proof.Machine

/-- What one instruction answers. -/
abbrev Outcome := Host.Outcome State Fault Refusal

def State.setPc (s : State) (v : Word) : State := { s with pc := v }
def State.setSp (s : State) (v : Byte) : State := { s with sp := v }
def State.setA (s : State) (v : Byte) : State := { s with a := v }
def State.setX (s : State) (v : Byte) : State := { s with x := v }
def State.setY (s : State) (v : Byte) : State := { s with y := v }
def State.setFlags (s : State) (v : Flags) : State := { s with flags := v }
def State.setMem (s : State) (v : Memory) : State := { s with mem := v }
def State.setSession (s : State) (v : Session) : State := { s with session := v }
def State.setDiag (s : State) (v : List DiagEvent) : State := { s with diag := v }
def State.setCycles (s : State) (v : Int) : State := { s with cycles := v }

/-- The byte memory holds at a 16-bit address, which MemRead always answers (R141). -/
def State.peek (s : State) (addr : Word) : Byte := s.mem.get addr.toNat

/-- Tick() (R84): one cycle with no memory access. -/
def State.tick (s : State) : State := s.setCycles (s.cycles - 1)

/-- What `n` FetchBytes do to the state (R81): PC past `n` bytes, `n` cycles debited. The bytes themselves are the
decoded instruction's. -/
def State.fetched (s : State) (n : Nat) : State :=
  (s.setPc (s.pc + BitVec.ofNat 16 n)).setCycles (s.cycles - n)

/-- FetchByte() (R81): the byte at PC, with PC incremented modulo 2^16 and one cycle debited. -/
def fetchByte (s : State) : Except Fault (Byte × State) :=
  match memRead s.pc.toNat s.mem with
  | .ok b => .ok (b, (s.setPc (s.pc + 1)).tick)
  | .error f => .error f

/-- FetchWord() (R82): low byte, then high byte at the incremented PC. -/
def fetchWord (s : State) : Except Fault (Word × State) :=
  match fetchByte s with
  | .error f => .error f
  | .ok (lo, s1) =>
    match fetchByte s1 with
    | .error f => .error f
    | .ok (hi, s2) => .ok (wordOfBytes lo hi, s2)

/-- ReadByte(addr) (R83): the byte at a computed address, one cycle debited, PC untouched. -/
def readByte (addr : Word) (s : State) : Except Fault (Byte × State) :=
  match memRead addr.toNat s.mem with
  | .ok b => .ok (b, s.tick)
  | .error f => .error f

/-- A MemWrite at a 16-bit address and its cycle, as the subroutine call makes them (42_call.md R120). -/
def writeByte (addr : Word) (v : Byte) (s : State) : Except Fault State :=
  match memWrite addr.toNat v s.mem with
  | .ok m => .ok (s.setMem m).tick
  | .error f => .error f

/-- The address the stack pointer value `sp` designates: 0x0100 | SP (10_state.md R26). -/
def stackAddr (sp : Byte) : Word := wordOfBytes sp Config.stackPage

/-- `emit Diag(opAddr, op)` (00_scope.md R8, 10_state.md R32). -/
def emitDiag (opAddr : Word) (op : Byte) (s : State) : State :=
  s.setDiag (s.diag ++ [{ opcodeAddress := opAddr, opcode := op }])

/-- Taking a fault (R142): the session becomes Faulted(f); nothing else changes: no vector, no saved PC or status. There
is no return from it (R146). -/
def raiseFault (f : Fault) (s : State) : State := s.setSession (.faulted f)

/-- The fault codes of R140. -/
def Fault.code : Fault → Nat
  | .outOfBounds _ => 1
  | .useBeforeReset _ => 2

/-- What the session check answers. -/
inductive Admission where
  | run
  | fault (f : Fault)
  | noStep (r : Refusal)
  deriving DecidableEq, Repr

/-- The session check an operation makes before anything else (R144; which operation each session allows: R174). -/
def sessionCheck (op : OpName) (session : Session) : Admission :=
  match session with
  | .faulted f => if op = .readDiag ∨ op = .readFault then .run else .noStep (.sessionFaulted f)
  | .unreset =>
    if op = .reset ∨ op = .readDiag then .run
    else if op = .readFault then .noStep .noFaultRecorded
    else .fault (.useBeforeReset op)
  | .ready => if op = .readFault then .noStep .noFaultRecorded else .run

end Sys2Proof.Machine
end

