-- ==== Sys2Proof/Machine/Call.lean ====
section
/-! DEFINITION. The subroutine call (spec/42_call.md R120; the reference's placeholder is not modelled, R121). -/

namespace Sys2Proof.Machine

/-- The pushed value is PC - 1 after the fetches, the address of the call's last byte (R120). -/
def returnAddress (s : State) : Word := s.pc - 1

/-- The body of R120 after its operand is fetched: high byte at the byte SP designates, low byte one below inside the
stack page, SP down by 2, one internal cycle, PC to the target. -/
def callTo (target : Word) (s : State) : Outcome :=
  match writeByte (stackAddr s.sp) (hiByte (returnAddress s)) s with
  | .error f => .fault f
  | .ok s1 =>
    match writeByte (stackAddr (s.sp - 1)) (loByte (returnAddress s)) s1 with
    | .error f => .fault f
    | .ok s2 => .next ((s2.setSp (s.sp - 2)).tick.setPc target)

/-- JSR abs (R120). -/
def execJsr (target : Word) (s : State) : Outcome := callTo target (s.fetched 3)

end Sys2Proof.Machine
end

