-- ==== Sys2Proof/Machine/Flags.lean ====
section
/-! DEFINITION. The one flag computation of the block: the status-update rule of the loads (spec/41_load.md R100). -/

namespace Sys2Proof.Machine

/-- SetZN(v) on the flags: Z is (v = 0), N is v[7]; C, I, D, B and V keep their values (R100). -/
def setZN (v : Byte) (f : Flags) : Flags := { f with z := v == 0, n := v.getLsbD 7 }

end Sys2Proof.Machine
end

