-- ==== Sys2Proof/Machine/Operands.lean ====
section
/-! DEFINITION. The effective address of each addressing mode and the page-cross test (spec/30_encoding.md R62,
spec/41_load.md R102 to R106). The Immediate mode has none: its operand is the value (R101). -/

namespace Sys2Proof.Machine

/-- Zero-page: `zext_16(zp)` (R102). -/
def eaZp (zp : Byte) : Word := zext16 zp

/-- Zero-page,X: the sum is taken modulo 2^8, so the address stays in page 0 (R103). -/
def eaZpX (zp x : Byte) : Word := zext16 (zp + x)

/-- Absolute,X and Absolute,Y: the sum is taken modulo 2^16 (R105, R106; 92_eei_decisions.md D5). -/
def eaIndexed (base : Word) (index : Byte) : Word := base + zext16 index

/-- The page-cross test: the high byte of the effective address differs from the base's (R105, R106). -/
def pageCross (base : Word) (index : Byte) : Bool := hiByte (eaIndexed base index) != hiByte base

end Sys2Proof.Machine
end

