-- ==== Sys2Proof/Machine/Load.lean ====
section
/-! DEFINITION. The accumulator-load family (spec/41_load.md). A meaning starts with PC at the opcode; `State.fetched`
passes the instruction's bytes and debits their cycles (R81), the rest follows the rule's own pseudocode. -/

namespace Sys2Proof.Machine

/-- `A <- v; SetZN(A)`: how every load ends (R100). -/
def loadValue (v : Byte) (s : State) : State := (s.setA v).setFlags (setZN v s.flags)

/-- `A <- ReadByte(ea); SetZN(A)` (R102 to R106). -/
def loadByte (ea : Word) (s : State) : Outcome :=
  match readByte ea s with
  | .ok (v, t) => .next (loadValue v t)
  | .error f => .fault f

/-- The body that Absolute,X and Absolute,Y share: a Tick on a page cross, then the load (R105, R106). -/
def loadIndexed (base : Word) (index : Byte) (s : State) : Outcome :=
  loadByte (eaIndexed base index) (if pageCross base index then s.tick else s)

/-- LDA #imm (R101). -/
def execLdaImm (imm : Byte) (s : State) : Outcome := .next (loadValue imm (s.fetched 2))

/-- LDA zp (R102). -/
def execLdaZp (zp : Byte) (s : State) : Outcome := loadByte (eaZp zp) (s.fetched 2)

/-- LDA zp,X (R103): one cycle for the add, whether or not it carries. -/
def execLdaZpX (zp : Byte) (s : State) : Outcome := loadByte (eaZpX zp s.x) (s.fetched 2).tick

/-- LDA abs (R104): a pure read, no push and no jump (R107). -/
def execLdaAbs (abs : Word) (s : State) : Outcome := loadByte abs (s.fetched 3)

/-- LDA abs,X (R105). -/
def execLdaAbsX (base : Word) (s : State) : Outcome := loadIndexed base s.x (s.fetched 3)

/-- LDA abs,Y (R106). -/
def execLdaAbsY (base : Word) (s : State) : Outcome := loadIndexed base s.y (s.fetched 3)

end Sys2Proof.Machine
end

