-- ==== Sys2Proof/Machine/Unrecognised.lean ====
section
/-! DEFINITION. Every other opcode byte (spec/43_unrecognised.md R130; no 6502 meaning is executed, R131). -/

namespace Sys2Proof.Machine

/-- A one-cycle no-op that reports its own address and byte; no byte after it is read (R130). -/
def execUnrecognised (op : Byte) (s : State) : Outcome := .next (emitDiag s.pc op (s.fetched 1))

end Sys2Proof.Machine
end

