-- ==== Sys2Proof/Machine/Dispatch.lean ====
section
/-! DEFINITION. Dispatch (spec/40_fetch_execute.md R88): one arm per instruction, one meaning per arm. -/

namespace Sys2Proof.Machine

/-- What an instruction does, from the state with PC at its opcode. No instruction reads the session (10_state.md R31). -/
def exec (i : Instr) (s : State) : Host.Outcome State Fault Refusal :=
  match i with
  | .ldaImm imm => Sys2Proof.Machine.execLdaImm imm s
  | .ldaZp zp => Sys2Proof.Machine.execLdaZp zp s
  | .ldaZpX zp => Sys2Proof.Machine.execLdaZpX zp s
  | .ldaAbs abs => Sys2Proof.Machine.execLdaAbs abs s
  | .ldaAbsX base => Sys2Proof.Machine.execLdaAbsX base s
  | .ldaAbsY base => Sys2Proof.Machine.execLdaAbsY base s
  | .jsr target => Sys2Proof.Machine.execJsr target s
  | .unrecognised op => Sys2Proof.Machine.execUnrecognised op s

end Sys2Proof.Machine
end

