-- ==== Sys2Proof/Machine/Fetch.lean ====
section
/-! DEFINITION. The instruction at PC (spec/30_encoding.md R60, R61), and placing one there. -/

namespace Sys2Proof.Machine

/-- The bytes at PC, PC + 1 and PC + 2, each address modulo 2^16 (R60, 40_fetch_execute.md R92). -/
def fetchBytes (s : State) : List Byte := [s.peek s.pc, s.peek (s.pc + 1), s.peek (s.pc + 2)]

/-- The instruction at PC. Reads have no side effect (20_memory.md R42), so looking at three bytes and using as many as
the opcode says is fetching them one by one (DEDUCED, safe: notes/assumptions/8.md). -/
def fetchInstr (s : State) : Instr := assemble (s.peek s.pc) (s.peek (s.pc + 1)) (s.peek (s.pc + 2))

/-- Memory with the bytes `bs` from the address `addr` upward, modulo 2^16. -/
def placeBytes : List Byte → Word → Memory → Memory
  | [], _, m => m
  | b :: bs, addr, m => placeBytes bs (addr + 1) (m.set addr.toNat b)

end Sys2Proof.Machine
end

