-- ==== Sys2Proof/Machine/Step.lean ====
section
/-! DEFINITION. One step: one pass of the loop of Execute (spec/40_fetch_execute.md R85), which is a single step of the
machine (spec/60_exceptions.md R153: Execute with budget 1 runs exactly one instruction). -/

namespace Sys2Proof.Machine

/-- One pass: the session check of Execute (R93, R144), then the instruction at PC. The loop's own test of the counter is
Execute's (Sys2Proof/Machine/Execute.lean), which makes it before each pass (R87). -/
def step (s : State) : Host.Outcome State Fault Refusal :=
  match sessionCheck .execute s.session with
  | .run => exec (fetchInstr s) s
  | .fault f => .fault f
  | .noStep r => .refused r

/-- `s` with an instruction, numbered as spec/opcode_table.json numbers bits, at PC, where the next step fetches. -/
def State.withFetchWord (s : State) (nbits w : Nat) : State :=
  s.setMem (placeBytes (tableWordBytes nbits w) s.pc s.mem)

end Sys2Proof.Machine
end

