-- ==== Sys2Proof/Machine/HostOps.lean ====
section
/-! DEFINITION. The host interface: the twelve operations of spec/70_reset_and_hazards.md R174, Execute's loop among
them (spec/40_fetch_execute.md R85), and a run as a sequence of operations (R177). An operation is one function from
state to state, so the host and the core never act at once (20_memory.md R57). -/

namespace Sys2Proof.Machine

/-- The registers a host reads and writes (R174). -/
inductive RegName where
  | pc | sp | a | x | y
  deriving DecidableEq, Repr

/-- The flags a host reads and writes (R174). -/
inductive FlagName where
  | c | z | i | d | b | v | n
  deriving DecidableEq, Repr

/-- A host operation with its arguments (R174). A written value is a plain number, so that one that does not fit can be
named (R175); WriteWord's value is 16 bits (20_memory.md R44). -/
inductive HostOp where
  | reset
  | execute (budget : Int)
  | readReg (r : RegName)
  | writeReg (r : RegName) (value : Nat)
  | readFlag (f : FlagName)
  | writeFlag (f : FlagName) (value : Nat)
  | read (addr : Nat)
  | write (addr : Nat) (value : Nat)
  | writeWord (cycles : Int) (value : Word) (addr : Nat)
  | initialise
  | readDiag
  | readFault
  deriving DecidableEq, Repr

/-- The operation without its arguments: what UseBeforeReset records (60_exceptions.md R140). -/
def HostOp.name : HostOp → OpName
  | .reset => .reset
  | .execute _ => .execute
  | .readReg _ => .readReg
  | .writeReg _ _ => .writeReg
  | .readFlag _ => .readFlag
  | .writeFlag _ _ => .writeFlag
  | .read _ => .read
  | .write _ _ => .write
  | .writeWord _ _ _ => .writeWord
  | .initialise => .initialise
  | .readDiag => .readDiag
  | .readFault => .readFault

/-- An operation's result (R174). -/
inductive HostValue where
  | unit
  /-- A register, flag or memory byte. -/
  | nat (v : Nat)
  /-- cyclesUsed, or WriteWord's counter. -/
  | int (v : Int)
  | log (events : List DiagEvent)
  /-- The fault code and its info (60_exceptions.md R140). -/
  | faultRecord (code : Nat) (f : Fault)
  deriving DecidableEq, Repr

/-- How an operation ends: it returns, it faults and leaves a Faulted session (60_exceptions.md R142), or it has no
step. -/
inductive HostOutcome where
  | returned (v : HostValue) (s : State)
  | faulted (f : Fault) (s : State)
  | noStep (r : Refusal)
  deriving DecidableEq, Repr

/-- A register's value as a number. -/
def State.readReg (s : State) : RegName → Nat
  | .pc => s.pc.toNat
  | .sp => s.sp.toNat
  | .a => s.a.toNat
  | .x => s.x.toNat
  | .y => s.y.toNat

/-- The width of a register in bits (00_scope.md R5). -/
def RegName.width : RegName → Nat
  | .pc => 16
  | .sp => 8
  | .a => 8
  | .x => 8
  | .y => 8

/-- A register written with a value of its width (10_state.md R33). -/
def State.writeReg (s : State) (r : RegName) (v : Nat) : State :=
  match r with
  | .pc => s.setPc (BitVec.ofNat 16 v)
  | .sp => s.setSp (BitVec.ofNat 8 v)
  | .a => s.setA (BitVec.ofNat 8 v)
  | .x => s.setX (BitVec.ofNat 8 v)
  | .y => s.setY (BitVec.ofNat 8 v)

/-- A flag. -/
def Flags.get (f : Flags) : FlagName → Bool
  | .c => f.c
  | .z => f.z
  | .i => f.i
  | .d => f.d
  | .b => f.b
  | .v => f.v
  | .n => f.n

/-- The flags with one of them written. -/
def Flags.set (f : Flags) (name : FlagName) (v : Bool) : Flags :=
  match name with
  | .c => { f with c := v }
  | .z => { f with z := v }
  | .i => { f with i := v }
  | .d => { f with d := v }
  | .b => { f with b := v }
  | .v => { f with v := v }
  | .n => { f with n := v }

/-- An access that may fault: its effect on the state, or the fault taken with nothing written (60_exceptions.md R142). -/
def orFault {α : Type} (r : Except Fault α) (s : State) (ok : α → HostOutcome) : HostOutcome :=
  match r with
  | .ok v => ok v
  | .error f => .faulted f (raiseFault f s)

/-- A host write whose value must be below `limit` (R175): refused otherwise, never truncated. -/
def ifFits (op : OpName) (v limit : Nat) (ok : HostOutcome) : HostOutcome :=
  if v < limit then ok else .noStep (.valueTooWide op v)

/-- The loop of R85, at most `fuel` passes; the counter is tested before each pass only (R87). A fault of a pass ends it
(R94; no instruction raises one, R141). -/
def executeLoop : Nat → State → HostOutcome
  | 0, s => .returned .unit s
  | fuel + 1, s =>
    if 0 < s.cycles then
      match step s with
      | .next t => executeLoop fuel t
      | .fault f => .faulted f (raiseFault f s)
      | .refused r => .noStep r
    else .returned .unit s

/-- Execute(budget) in a Ready session (R85, R86). A budget B runs at most B instructions (R90), so B passes are enough.
The counter exists only while Execute runs (R80), so it is 0 again afterwards. -/
def execute (budget : Int) (s : State) : HostOutcome :=
  match executeLoop budget.toNat (s.setCycles budget) with
  | .returned _ t => .returned (.int (budget - t.cycles)) (t.setCycles 0)
  | .faulted f t => .faulted f (t.setCycles 0)
  | .noStep r => .noStep r

/-- Reset() (R170). -/
def resetOp (p : Config.Params) (s : State) : HostOutcome := .returned .unit (State.resetWith p s.diag)

/-- ReadReg(r) (R174). -/
def readRegOp (r : RegName) (s : State) : HostOutcome := .returned (.nat (s.readReg r)) s

/-- WriteReg(r, v) (R174, R175). -/
def writeRegOp (r : RegName) (v : Nat) (s : State) : HostOutcome :=
  ifFits .writeReg v (2 ^ r.width) (.returned .unit (s.writeReg r v))

/-- ReadFlag(f) (R174). -/
def readFlagOp (f : FlagName) (s : State) : HostOutcome := .returned (.nat (s.flags.get f).toNat) s

/-- WriteFlag(f, v) (R174, R175). -/
def writeFlagOp (f : FlagName) (v : Nat) (s : State) : HostOutcome :=
  ifFits .writeFlag v 2 (.returned .unit (s.setFlags (s.flags.set f (v == 1))))

/-- Read(address) (R174). -/
def readOp (addr : Nat) (s : State) : HostOutcome :=
  orFault (memRead addr s.mem) s fun b => .returned (.nat b.toNat) s

/-- Write(address, v) (R174, R175). The width is checked first (DESIGN CHOICE, safe: notes/assumptions/7.md). -/
def writeOp (addr v : Nat) (s : State) : HostOutcome :=
  ifFits .write v 256 (orFault (memWrite addr (BitVec.ofNat 8 v) s.mem) s fun m => .returned .unit (s.setMem m))

/-- WriteWord(cycles, value, address) (R174, 20_memory.md R44): the counter is the caller's own. -/
def writeWordOp (cycles : Int) (value : Word) (addr : Nat) (s : State) : HostOutcome :=
  orFault (writeWord cycles value addr s.mem) s fun r => .returned (.int r.2) (s.setMem r.1)

/-- Initialise() (R174, 20_memory.md R43): memory only. -/
def initialiseOp (s : State) : HostOutcome := .returned .unit (s.setMem initialise)

/-- ReadDiag() (R174). -/
def readDiagOp (s : State) : HostOutcome := .returned (.log s.diag) s

/-- ReadFault() (R174). -/
def readFaultOp (s : State) : HostOutcome :=
  match s.session with
  | .faulted f => .returned (.faultRecord f.code f) s
  | .unreset => .noStep .noFaultRecorded
  | .ready => .noStep .noFaultRecorded

/-- An operation once the session check has let it run. -/
def performAdmitted (p : Config.Params) (op : HostOp) (s : State) : HostOutcome :=
  match op with
  | .reset => resetOp p s
  | .execute budget => execute budget s
  | .readReg r => readRegOp r s
  | .writeReg r v => writeRegOp r v s
  | .readFlag f => readFlagOp f s
  | .writeFlag f v => writeFlagOp f v s
  | .read addr => readOp addr s
  | .write addr v => writeOp addr v s
  | .writeWord cycles value addr => writeWordOp cycles value addr s
  | .initialise => initialiseOp s
  | .readDiag => readDiagOp s
  | .readFault => readFaultOp s

/-- A host operation: the session check first (R144), then the operation (R174). -/
def perform (p : Config.Params) (op : HostOp) (s : State) : HostOutcome :=
  match sessionCheck op.name s.session with
  | .run => performAdmitted p op s
  | .fault f => .faulted f (raiseFault f s)
  | .noStep r => .noStep r

/-- The observable outcome of a run (R177): the results returned, the final state with its fault record, and the refusal
if an operation had no step. -/
structure HostRun where
  results : List HostValue
  final : State
  stuck : Option Refusal
  deriving DecidableEq, Repr

/-- A run: operations one after the other, until the last has returned, one faults, or one has no step (R177). -/
def runOps (p : Config.Params) : List HostOp → State → HostRun
  | [], s => { results := [], final := s, stuck := none }
  | op :: ops, s =>
    match perform p op s with
    | .returned v t =>
      let rest := runOps p ops t
      { rest with results := v :: rest.results }
    | .faulted _ t => { results := [], final := t, stuck := none }
    | .noStep r => { results := [], final := s, stuck := some r }

end Sys2Proof.Machine
end

