-- ==== Sys2Proof/Machine/Pass.lean ====
section
/-! DEFINITION. One pass of Execute's loop word for word as spec/40_fetch_execute.md R85 and R88 write it: fetch the opcode,
select the rule by that byte alone, let the rule fetch its own operands. `step` decodes first and then executes; that the
two agree is an obligation, not an assumption. -/

namespace Sys2Proof.Machine

/-- `b <- FetchByte()`, then the rest of the rule (R81). -/
def withByte (s : State) (rest : Byte → State → Outcome) : Outcome :=
  match fetchByte s with
  | .ok (b, t) => rest b t
  | .error f => .fault f

/-- `w <- FetchWord()`, then the rest of the rule (R82). -/
def withWord (s : State) (rest : Word → State → Outcome) : Outcome :=
  match fetchWord s with
  | .ok (w, t) => rest w t
  | .error f => .fault f

/-- `dispatch(op, opAddr)`: the table of R88, with the rules R101 to R106, R120 and R130 entered with the opcode
fetched. -/
def dispatchPass (op : Byte) (opAddr : Word) (s : State) : Outcome :=
  if op = 0xA9 then withByte s fun v t => .next (loadValue v t)
  else if op = 0xA5 then withByte s fun zp t => loadByte (eaZp zp) t
  else if op = 0xB5 then withByte s fun zp t => loadByte (eaZpX zp t.x) t.tick
  else if op = 0xAD then withWord s fun abs t => loadByte abs t
  else if op = 0xBD then withWord s fun base t => loadIndexed base t.x t
  else if op = 0xB9 then withWord s fun base t => loadIndexed base t.y t
  else if op = 0x20 then withWord s fun target t => callTo target t
  else .next (emitDiag opAddr op s)

/-- The loop's body: `opAddr <- PC; op <- FetchByte(); dispatch(op, opAddr)` (R85). -/
def loopPass (s : State) : Outcome := withByte s fun op t => dispatchPass op s.pc t

end Sys2Proof.Machine
end

