-- ==== Sys2Proof/Machine/Timing.lean ====
section
/-! DEFINITION. The cost table of spec/70_reset_and_hazards.md R179, written from the table alone. No meaning uses it: the
meanings debit cycle by cycle, and that they debit what the table says is an obligation. -/

namespace Sys2Proof.Machine

/-- 4 cycles, or 5 on a page cross. -/
def indexedCost (base : Word) (index : Byte) : Int := if pageCross base index then 5 else 4

/-- The cycles of an instruction (R179). -/
def cost (i : Instr) (s : State) : Int :=
  match i with
  | .ldaImm _ => 2
  | .ldaZp _ => 3
  | .ldaZpX _ => 4
  | .ldaAbs _ => 4
  | .ldaAbsX base => indexedCost base s.x
  | .ldaAbsY base => indexedCost base s.y
  | .jsr _ => 6
  | .unrecognised _ => 1

end Sys2Proof.Machine
end

