-- ==== Sys2Proof/WellFormed.lean ====
section
/-! DEFINITION. Which terms of `Instr` are instructions of the hardware. The operands' types leave them no bad value;
the one check is that a byte called unrecognised is none of the seven of spec/30_encoding.md R63 (R64). -/

namespace Sys2Proof

/-- `unrecognised op` is an instruction only where `op` is not in the opcode table (R64). -/
def Instr.wellFormed : Instr → Bool
  | .unrecognised op => decodeOpcode op == .unrecognised
  | .ldaImm _ | .ldaZp _ | .ldaZpX _ | .ldaAbs _ | .ldaAbsX _ | .ldaAbsY _ | .jsr _ => true

/-- The check as a proposition. -/
abbrev Instr.WellFormed (i : Instr) : Prop := i.wellFormed = true

end Sys2Proof
end

