-- ==== Sys2Proof/Safety.lean ====
section
/-! DEFINITION. The terms the statements use: the machine before its first Reset, the invariant, the loop of Execute as a
relation, and the bytes an instruction may store to. -/

namespace Sys2Proof.Machine

/-- The machine between construction and the first Reset (spec/10_state.md R34), with any contents: the spec gives the
registers, flags and memory no value there, and no statement gives them one (notes/assumptions/4.md). -/
abbrev State.Constructed (s : State) : Prop := s.session = .unreset ∧ s.diag = []

/-- What holds of every state of a run: memory is in canonical form inside the address space (spec/20_memory.md R40), and
the log reports only bytes outside the opcode table (spec/10_state.md R32, spec/43_unrecognised.md R130). -/
abbrev State.Inv (s : State) : Prop :=
  s.mem.wf ∧ ∀ e ∈ s.diag, decodeOpcode e.opcode = .unrecognised

/-- The loads (spec/41_load.md). -/
def isLoad : Instr → Bool
  | .ldaImm _ | .ldaZp _ | .ldaZpX _ | .ldaAbs _ | .ldaAbsX _ | .ldaAbsY _ => true
  | .jsr _ | .unrecognised _ => false

/-- The loop of spec/40_fetch_execute.md R85 with no bound: `Passes costs s t` says that from `s` the loop makes one pass
for each entry of `costs`, each with a positive counter before it and of that cost (R179), and stops at `t`. -/
inductive Passes : List Int → State → State → Prop where
  | stop {s : State} : s.cycles ≤ 0 → Passes [] s s
  | pass {s t u : State} {costs : List Int} :
      0 < s.cycles → step s = .next t → Passes costs t u → Passes (cost (fetchInstr s) s :: costs) s u

/-- An instruction's answer with a change made to the state it leaves. -/
def mapNext (g : State → State) : Outcome → Outcome
  | .next t => .next (g t)
  | .fault f => .fault f
  | .refused r => .refused r

/-- What a host learns from an operation beside the state it leaves: the result, the fault or the refusal. -/
inductive Label where
  | result (v : HostValue)
  | fault (f : Fault)
  | refusal (r : Refusal)
  deriving DecidableEq, Repr

/-- The label of an operation's outcome. -/
def HostOutcome.label : HostOutcome → Label
  | .returned v _ => .result v
  | .faulted f _ => .fault f
  | .noStep r => .refusal r

end Sys2Proof.Machine
end

