-- ==== Sys2Proof/Certificates/Slice0/Obligations.lean ====
section
/-! DEFINITION. The statements for the provers, each from the numbered rules of spec/. Addresses and effective addresses
are written out in plain arithmetic here, not through the model's own helpers, but where a frame names the address a
meaning stores to. -/

open Sys2Proof Sys2Proof.Machine

/-! ### Encoding -/

/-- R60 to R64: decoding the bytes of a well-formed instruction, whatever follows them, gives it back whole. -/
def Obligations.DecodeEncodeIsIdentity : Prop :=
  ∀ (i : Instr) (rest : List Byte), i.WellFormed → decode (encode i ++ rest) = .ok (i, rest)

/-- R65: bytes have one meaning: what decodes to an instruction is that instruction's encoding and the rest. -/
def Obligations.EncodeDecodeIsIdentity : Prop :=
  ∀ (bytes : List Byte) (i : Instr) (rest : List Byte), decode bytes = .ok (i, rest) →
    i.WellFormed ∧ encode i ++ rest = bytes

/-- R65: every opcode byte decodes, to an instruction of one to three bytes, and the byte alone fixes which of the eight
outcomes it is and its length. -/
def Obligations.DecoderIsTotalAndStateless : Prop :=
  ∀ (op b1 b2 c1 c2 : Byte) (rest rest' : List Byte), ∃ i j : Instr,
    decode (op :: b1 :: b2 :: rest) = .ok (i, (op :: b1 :: b2 :: rest).drop i.length) ∧ i.WellFormed ∧
    1 ≤ i.length ∧ i.length ≤ 3 ∧
    decode (op :: c1 :: c2 :: rest') = .ok (j, (op :: c1 :: c2 :: rest').drop j.length) ∧
    j.opcode = i.opcode ∧ j.length = i.length ∧ i.opcode = decodeOpcode op

/-- R63 and R62: the seven opcode bytes with their operands assembled, and no other byte is one of them. The byte values are
the spec's decision D1 (notes/assumptions/6.md). -/
def Obligations.OpcodeMapOfSevenBytes : Prop :=
  (∀ (b1 b2 : Byte) (rest : List Byte),
    decode (0xA9 :: b1 :: rest) = .ok (.ldaImm b1, rest) ∧
    decode (0xA5 :: b1 :: rest) = .ok (.ldaZp b1, rest) ∧
    decode (0xB5 :: b1 :: rest) = .ok (.ldaZpX b1, rest) ∧
    decode (0xAD :: b1 :: b2 :: rest) = .ok (.ldaAbs (b1.setWidth 16 ||| b2.setWidth 16 <<< 8), rest) ∧
    decode (0xBD :: b1 :: b2 :: rest) = .ok (.ldaAbsX (b1.setWidth 16 ||| b2.setWidth 16 <<< 8), rest) ∧
    decode (0xB9 :: b1 :: b2 :: rest) = .ok (.ldaAbsY (b1.setWidth 16 ||| b2.setWidth 16 <<< 8), rest) ∧
    decode (0x20 :: b1 :: b2 :: rest) = .ok (.jsr (b1.setWidth 16 ||| b2.setWidth 16 <<< 8), rest)) ∧
  (∀ op : Byte, decodeOpcode op ≠ .unrecognised ↔
    op = 0xA9 ∨ op = 0xA5 ∨ op = 0xB5 ∨ op = 0xAD ∨ op = 0xBD ∨ op = 0xB9 ∨ op = 0x20) ∧
  (∀ zp : Byte, eaZp zp = zp.setWidth 16 ∧ (eaZp zp).toNat ≤ 0x00FF)

/-- R64: every byte outside the table, 249 of them, decodes as an unrecognised opcode of length 1, and is skipped as a
one-cycle no-op with a diagnostic. Which seven are not among them is the spec's decision D1 (notes/assumptions/6.md);
that the event is (PC, op) is R130's and rests on its decision D11 (notes/assumptions/5.md). -/
def Obligations.UnlistedBytesAreUnrecognised : Prop :=
  (∀ (op : Byte) (rest : List Byte), op ∉ ([0xA9, 0xA5, 0xB5, 0xAD, 0xBD, 0xB9, 0x20] : List Byte) →
    decode (op :: rest) = .ok (.unrecognised op, rest) ∧ (Instr.unrecognised op).length = 1 ∧
    ∀ s : State, exec (.unrecognised op) s =
      .next { s with pc := s.pc + 1, cycles := s.cycles - 1, diag := s.diag ++ [⟨s.pc, op⟩] }) ∧
  ((List.range 256).filter fun k => decodeOpcode (BitVec.ofNat 8 k) == .unrecognised).length = 249

/-- The example bytes of R67, written out from its table. -/
def Obligations.SpecExampleWordsDecode : Prop :=
  decode [0xA9, 0x84] = .ok (.ldaImm 0x84, []) ∧ decode [0xA5, 0x42] = .ok (.ldaZp 0x42, []) ∧
  decode [0xB5, 0x80] = .ok (.ldaZpX 0x80, []) ∧ decode [0xAD, 0x80, 0x44] = .ok (.ldaAbs 0x4480, []) ∧
  decode [0xBD, 0xFF, 0x30] = .ok (.ldaAbsX 0x30FF, []) ∧ decode [0xB9, 0x00, 0x30] = .ok (.ldaAbsY 0x3000, []) ∧
  decode [0x20, 0x00, 0x80] = .ok (.jsr 0x8000, []) ∧ decode [0xEA] = .ok (.unrecognised 0xEA, []) ∧
  decode [0xAD, 0x42, 0x00] = .ok (.ldaAbs 0x0042, [])

/-! ### A step -/

/-- R85, R88: in a Ready session, a step is exec of the instruction the bytes at PC, PC + 1 and PC + 2 (modulo 2^16) decode
to, with nothing added around it. -/
def Obligations.StepRunsDecodedInstruction : Prop :=
  ∀ (s : State) (i : Instr) (rest : List Byte), s.session = .ready →
    decode [s.mem.get s.pc.toNat, s.mem.get ((s.pc.toNat + 1) % 65536), s.mem.get ((s.pc.toNat + 2) % 65536)]
      = .ok (i, rest) → step s = exec i s

/-- R93: a step and an Execute of any budget before the first Reset fault with UseBeforeReset and change nothing but the
session; in a Faulted session they have no step. Both are the spec's decisions, D8 and D7 (notes/assumptions/6.md). -/
def Obligations.ExecuteNeedsReadySession : Prop :=
  (∀ s : State, s.session = .unreset →
    step s = .fault (.useBeforeReset .execute) ∧
    ∀ (p : Config.Params) (budget : Int), perform p (.execute budget) s =
      .faulted (.useBeforeReset .execute) { s with session := .faulted (.useBeforeReset .execute) }) ∧
  (∀ (s : State) (f : Fault), s.session = .faulted f →
    step s = .refused (.sessionFaulted f) ∧
    ∀ (p : Config.Params) (budget : Int), perform p (.execute budget) s = .noStep (.sessionFaulted f))

/-- R85, R88: decoding first and then executing is the loop's body as the rules write it, the operands fetched one by one
inside each rule, every access checked. -/
def Obligations.StepIsTheWrittenPass : Prop :=
  ∀ s : State, s.session = .ready → step s = loopPass s

/-- R81, R82, R83: what the fetch primitives answer and leave, for every state; a Tick is one cycle and nothing else. The
wrap of PC is the spec's decision D6 (notes/assumptions/6.md). -/
def Obligations.FetchPrimitives : Prop :=
  ∀ (s : State) (addr : Word),
    fetchByte s = .ok (s.mem.get s.pc.toNat, { s with pc := s.pc + 1, cycles := s.cycles - 1 }) ∧
    fetchWord s = .ok (s.mem.get s.pc.toNat |>.setWidth 16 |>.or
      ((s.mem.get ((s.pc.toNat + 1) % 65536)).setWidth 16 <<< 8), { s with pc := s.pc + 2, cycles := s.cycles - 2 }) ∧
    readByte addr s = .ok (s.mem.get addr.toNat, { s with cycles := s.cycles - 1 }) ∧
    s.tick = { s with cycles := s.cycles - 1 }

/-! ### What each instruction does -/

/-- R101, for every operand and state; and the bytes A9 v at PC run it. The opcode byte is the spec's decision D1 and the
wrap of the operand's address its D6 (notes/assumptions/6.md). -/
def Obligations.LdaImmediateLoadsOperand : Prop :=
  (∀ (imm : Byte) (s : State), exec (.ldaImm imm) s = .next { s with
    a := imm, flags := { s.flags with z := decide (imm = 0), n := imm.msb }, pc := s.pc + 2,
    cycles := s.cycles - 2 }) ∧
  (∀ s : State, s.session = .ready → s.mem.get s.pc.toNat = 0xA9 →
    step s = exec (.ldaImm (s.mem.get ((s.pc.toNat + 1) % 65536))) s)

/-- R102 (opcode byte: D1; wrap of the operand's address: D6; notes/assumptions/6.md). -/
def Obligations.LdaZeroPageLoadsByte : Prop :=
  (∀ (zp : Byte) (s : State), exec (.ldaZp zp) s = .next { s with
    a := s.mem.get zp.toNat,
    flags := { s.flags with z := decide (s.mem.get zp.toNat = 0), n := (s.mem.get zp.toNat).msb },
    pc := s.pc + 2, cycles := s.cycles - 3 }) ∧
  (∀ s : State, s.session = .ready → s.mem.get s.pc.toNat = 0xA5 →
    step s = exec (.ldaZp (s.mem.get ((s.pc.toNat + 1) % 65536))) s)

/-- R103: the sum wraps modulo 256, and the cost never depends on it (opcode byte: D1; wrap of the operand's address: D6;
notes/assumptions/6.md). -/
def Obligations.LdaZeroPageXLoadsByte : Prop :=
  (∀ (zp : Byte) (s : State) (v : Byte), s.mem.get ((zp.toNat + s.x.toNat) % 256) = v →
    exec (.ldaZpX zp) s = .next { s with
      a := v, flags := { s.flags with z := decide (v = 0), n := v.msb }, pc := s.pc + 2, cycles := s.cycles - 4 }) ∧
  (∀ s : State, s.session = .ready → s.mem.get s.pc.toNat = 0xB5 →
    step s = exec (.ldaZpX (s.mem.get ((s.pc.toNat + 1) % 65536))) s)

/-- R104 (opcode byte: D1; wrap of the operand's addresses: D6; notes/assumptions/6.md; the cost of 4 is the spec's own
inference). -/
def Obligations.LdaAbsoluteLoadsByte : Prop :=
  (∀ (abs : Word) (s : State) (v : Byte), s.mem.get abs.toNat = v →
    exec (.ldaAbs abs) s = .next { s with
      a := v, flags := { s.flags with z := decide (v = 0), n := v.msb }, pc := s.pc + 3, cycles := s.cycles - 4 }) ∧
  (∀ s : State, s.session = .ready → s.mem.get s.pc.toNat = 0xAD →
    step s = exec (.ldaAbs (s.mem.get ((s.pc.toNat + 1) % 65536) |>.setWidth 16 |>.or
      ((s.mem.get ((s.pc.toNat + 2) % 65536)).setWidth 16 <<< 8))) s)

/-- R105: the sum wraps modulo 2^16; one more cycle exactly where its high byte differs from the base's. The wrap at the
top of memory is the spec's decision D5, the opcode byte its D1 (notes/assumptions/6.md). -/
def Obligations.LdaAbsoluteXLoadsByte : Prop :=
  (∀ (base : Word) (s : State) (ea : Nat) (v : Byte), (base.toNat + s.x.toNat) % 65536 = ea → s.mem.get ea = v →
    exec (.ldaAbsX base) s = .next { s with
      a := v, flags := { s.flags with z := decide (v = 0), n := v.msb }, pc := s.pc + 3,
      cycles := s.cycles - if ea / 256 = base.toNat / 256 then 4 else 5 }) ∧
  (∀ s : State, s.session = .ready → s.mem.get s.pc.toNat = 0xBD →
    step s = exec (.ldaAbsX (s.mem.get ((s.pc.toNat + 1) % 65536) |>.setWidth 16 |>.or
      ((s.mem.get ((s.pc.toNat + 2) % 65536)).setWidth 16 <<< 8))) s)

/-- R106: as R105, with Y; the same decisions of the spec. -/
def Obligations.LdaAbsoluteYLoadsByte : Prop :=
  (∀ (base : Word) (s : State) (ea : Nat) (v : Byte), (base.toNat + s.y.toNat) % 65536 = ea → s.mem.get ea = v →
    exec (.ldaAbsY base) s = .next { s with
      a := v, flags := { s.flags with z := decide (v = 0), n := v.msb }, pc := s.pc + 3,
      cycles := s.cycles - if ea / 256 = base.toNat / 256 then 4 else 5 }) ∧
  (∀ s : State, s.session = .ready → s.mem.get s.pc.toNat = 0xB9 →
    step s = exec (.ldaAbsY (s.mem.get ((s.pc.toNat + 1) % 65536) |>.setWidth 16 |>.or
      ((s.mem.get ((s.pc.toNat + 2) % 65536)).setWidth 16 <<< 8))) s)

/-- R120: the value pushed is the opcode's address plus 2, high byte at 0x0100 | SP, low byte at 0x0100 | (SP - 1 mod 256);
SP down by 2, PC to the target, 6 cycles. The pushed value and the addresses are the spec's decisions D4 and D10, the opcode
byte its D1 (notes/assumptions/6.md). -/
def Obligations.JsrPushesAndJumps : Prop :=
  (∀ (target : Word) (s : State), exec (.jsr target) s = .next { s with
    mem := (s.mem.set (0x0100 ||| s.sp.setWidth 16 : Word).toNat ((s.pc + 2).extractLsb' 8 8)).set
      (0x0100 ||| (s.sp - 1).setWidth 16 : Word).toNat ((s.pc + 2).extractLsb' 0 8),
    sp := s.sp - 2, pc := target, cycles := s.cycles - 6 }) ∧
  (∀ (target : Word) (s t : State), s.mem.wf → exec (.jsr target) s = .next t →
    t.mem.get (0x0100 + s.sp.toNat) = (s.pc + 2).extractLsb' 8 8 ∧
    t.mem.get (0x0100 + (s.sp.toNat + 255) % 256) = (s.pc + 2).extractLsb' 0 8) ∧
  (∀ s : State, s.session = .ready → s.mem.get s.pc.toNat = 0x20 →
    step s = exec (.jsr (s.mem.get ((s.pc.toNat + 1) % 65536) |>.setWidth 16 |>.or
      ((s.mem.get ((s.pc.toNat + 2) % 65536)).setWidth 16 <<< 8))) s)

/-- R130: a one-cycle no-op that reports its address and byte, whatever the bytes after it are (which bytes: D1; the event's
content: D11; notes/assumptions/5.md, 6.md). -/
def Obligations.UnrecognisedIsReportedNoOp : Prop :=
  (∀ (op : Byte) (s : State), exec (.unrecognised op) s =
    .next { s with pc := s.pc + 1, cycles := s.cycles - 1, diag := s.diag ++ [⟨s.pc, op⟩] }) ∧
  (∀ s : State, s.session = .ready →
    s.mem.get s.pc.toNat ∉ ([0xA9, 0xA5, 0xB5, 0xAD, 0xBD, 0xB9, 0x20] : List Byte) →
    step s = exec (.unrecognised (s.mem.get s.pc.toNat)) s)

/-- R100: the rule itself, and that every load ends with it, applied to the accumulator it leaves. -/
def Obligations.LoadsEndWithStatusUpdate : Prop :=
  (∀ (v : Byte) (f : Flags), setZN v f = { f with z := decide (v = 0), n := v.msb }) ∧
  (∀ (i : Instr) (s t : State), isLoad i = true → exec i s = .next t → t.flags = setZN t.a s.flags)

/-! ### Frames -/

/-- R107: a load leaves every register but A and PC, every flag but Z and N, and every byte of memory. -/
def Obligations.LoadsWriteNothingElse : Prop :=
  ∀ (i : Instr) (s t : State), isLoad i = true → exec i s = .next t →
    t.x = s.x ∧ t.y = s.y ∧ t.sp = s.sp ∧
    t.flags.c = s.flags.c ∧ t.flags.i = s.flags.i ∧ t.flags.d = s.flags.d ∧ t.flags.b = s.flags.b ∧
    t.flags.v = s.flags.v ∧ (∀ addr : Nat, t.mem.get addr = s.mem.get addr) ∧
    t.session = s.session ∧ t.diag = s.diag ∧ t.pc = s.pc + BitVec.ofNat 16 i.length

/-- R120: the call leaves A, X, Y, every flag, the session and the log, and every byte but the two it pushes, at the
addresses its meaning computes. -/
def Obligations.JsrFrame : Prop :=
  ∀ (target : Word) (s t : State), s.mem.wf → exec (.jsr target) s = .next t →
    t.a = s.a ∧ t.x = s.x ∧ t.y = s.y ∧ t.flags = s.flags ∧ t.session = s.session ∧ t.diag = s.diag ∧
    ∀ addr : Nat, addr ≠ (stackAddr s.sp).toNat → addr ≠ (stackAddr (s.sp - 1)).toNat →
      t.mem.get addr = s.mem.get addr

/-- R130, R131: an unrecognised opcode leaves every register but PC, every flag, the session and every byte of memory. -/
def Obligations.UnrecognisedFrame : Prop :=
  ∀ (op : Byte) (s t : State), exec (.unrecognised op) s = .next t →
    t.a = s.a ∧ t.x = s.x ∧ t.y = s.y ∧ t.sp = s.sp ∧ t.flags = s.flags ∧ t.session = s.session ∧
    ∀ addr : Nat, t.mem.get addr = s.mem.get addr

/-- R50, R55 (the page is the spec's decision D4): whatever instruction a step runs, every byte outside
0x0100 to 0x01FF reads as before. -/
def Obligations.StepWritesOnlyTheStackPage : Prop :=
  ∀ (s t : State) (addr : Nat), s.mem.wf → step s = .next t → addr < 0x0100 ∨ 0x0200 ≤ addr →
    t.mem.get addr = s.mem.get addr

/-! ### Rules of the whole machine -/

/-- R141: in a Ready session every instruction answers a next state and the session stays Ready; OutOfBounds comes only
from a host Read or Write at 65536 or above, or a WriteWord that reaches such an address. The spec infers it, from its
decisions D4 to D6 among other rules (notes/assumptions/6.md). -/
def Obligations.NoInstructionFaults : Prop :=
  (∀ (i : Instr) (s : State), ∃ t, exec i s = .next t ∧ t.session = s.session) ∧
  (∀ s : State, s.session = .ready → ∃ t, step s = .next t ∧ t.session = .ready) ∧
  (∀ (p : Config.Params) (op : HostOp) (s t : State) (addr : Nat),
    perform p op s = .faulted (.outOfBounds addr) t → 65536 ≤ addr ∧
      (op = .read addr ∨ (∃ v, op = .write addr v) ∨ (∃ c v, op = .writeWord c v addr) ∨
       (addr = 65536 ∧ ∃ c v, op = .writeWord c v 0xFFFF)))

/-- R27: which instruction writes which flag, that none reads one, and what Reset and the host write. -/
def Obligations.FlagsWrittenOnlyAsTabled : Prop :=
  (∀ (i : Instr) (s t : State), exec i s = .next t →
    t.flags.c = s.flags.c ∧ t.flags.i = s.flags.i ∧ t.flags.d = s.flags.d ∧ t.flags.b = s.flags.b ∧
    t.flags.v = s.flags.v ∧ (isLoad i = false → t.flags = s.flags) ∧
    (isLoad i = true → t.flags.z = decide (t.a = 0) ∧ t.flags.n = t.a.msb)) ∧
  (∀ (i : Instr) (s t : State) (g : Flags), exec i s = .next t →
    exec i { s with flags := g } = .next { t with flags := if isLoad i then setZN t.a g else g }) ∧
  (∀ (p : Config.Params) (s : State), s.session = .ready →
    (∃ t, perform p .reset s = .returned .unit t ∧ ∀ f : FlagName, t.flags.get f = false) ∧
    ∀ (f : FlagName) (b : Bool), ∃ t, perform p (.writeFlag f b.toNat) s = .returned .unit t ∧
      t = { s with flags := t.flags } ∧ t.flags.get f = b ∧ ∀ g ≠ f, t.flags.get g = s.flags.get g)

/-- R22, R23: no instruction writes X or Y; X is read by Zero-page,X and Absolute,X only, Y by Absolute,Y only; no host
operation but Reset and a WriteReg of the register itself writes it. How the loads add them to their addresses is R103's,
R105's and R106's, and the wrap modulo 2^16 the spec's decision D5 (notes/assumptions/6.md). -/
def Obligations.IndexRegistersWrittenOnlyByResetAndHost : Prop :=
  (∀ (i : Instr) (s t : State), exec i s = .next t → t.x = s.x ∧ t.y = s.y) ∧
  (∀ (i : Instr) (s : State) (v : Byte), i.opcode ≠ .ldaZpX → i.opcode ≠ .ldaAbsX →
    exec i { s with x := v } = mapNext (fun t => { t with x := v }) (exec i s)) ∧
  (∀ (i : Instr) (s : State) (v : Byte), i.opcode ≠ .ldaAbsY →
    exec i { s with y := v } = mapNext (fun t => { t with y := v }) (exec i s)) ∧
  (∀ (zp : Byte) (s t : State), exec (.ldaZpX zp) s = .next t → t.a = s.mem.get ((zp.toNat + s.x.toNat) % 256)) ∧
  (∀ (base : Word) (s t : State), exec (.ldaAbsX base) s = .next t →
    t.a = s.mem.get ((base.toNat + s.x.toNat) % 65536)) ∧
  (∀ (base : Word) (s t : State), exec (.ldaAbsY base) s = .next t →
    t.a = s.mem.get ((base.toNat + s.y.toNat) % 65536)) ∧
  (∀ (p : Config.Params) (op : HostOp) (s t : State) (v : HostValue), perform p op s = .returned v t →
    if op = .reset then t.x = 0 ∧ t.y = 0
    else ((∀ k, op ≠ .writeReg .x k) → t.x = s.x) ∧ ((∀ k, op ≠ .writeReg .y k) → t.y = s.y)) ∧
  (∀ (p : Config.Params) (s : State) (k : Nat), s.session = .ready → k < 256 →
    perform p (.writeReg .x k) s = .returned .unit { s with x := BitVec.ofNat 8 k } ∧
    perform p (.writeReg .y k) s = .returned .unit { s with y := BitVec.ofNat 8 k })

/-- R26: the byte SP designates, that the call alone among the instructions reads or writes SP, and how. The page is the
spec's decision D4 (notes/assumptions/6.md). -/
def Obligations.StackPointerUsedOnlyByTheCall : Prop :=
  (∀ sp : Byte, stackAddr sp = 0x0100 ||| sp.setWidth 16) ∧
  (∀ (i : Instr) (s t : State), exec i s = .next t →
    t.sp.toNat = if i.opcode = .jsr then (s.sp.toNat + 254) % 256 else s.sp.toNat) ∧
  (∀ (i : Instr) (s : State) (v : Byte), i.opcode ≠ .jsr →
    exec i { s with sp := v } = mapNext (fun t => { t with sp := v }) (exec i s)) ∧
  (∀ (p : Config.Params) (s : State) (k : Nat), s.session = .ready → k < 256 →
    (∃ t, perform p .reset s = .returned .unit t ∧ t.sp = p.resetSp) ∧
    perform p (.writeReg .sp k) s = .returned .unit { s with sp := BitVec.ofNat 8 k })

/-- R25, R92: after an instruction of L bytes PC is (opcode address + L) mod 2^16; only the call writes it otherwise. -/
def Obligations.ProgramCounterAdvance : Prop :=
  ∀ (i : Instr) (s t : State), exec i s = .next t →
    (∀ target, i = .jsr target → t.pc = target) ∧
    (i.opcode ≠ .jsr → t.pc.toNat = (s.pc.toNat + (encode i).length) % 65536)

/-- R21, R27, R31, R32: what an instruction leaves in PC, SP, X, Y, memory and the counter, and the value a load loads with
its Z and N, do not depend on A, the flags, the session or the log. -/
def Obligations.InstructionsReadNoAccumulatorFlagSessionOrLog : Prop :=
  ∀ (i : Instr) (s u : State), s.pc = u.pc → s.sp = u.sp → s.x = u.x → s.y = u.y → s.mem = u.mem →
    s.cycles = u.cycles → ∃ t t', exec i s = .next t ∧ exec i u = .next t' ∧
      t.pc = t'.pc ∧ t.sp = t'.sp ∧ t.x = t'.x ∧ t.y = t'.y ∧ t.mem = t'.mem ∧ t.cycles = t'.cycles ∧
      (isLoad i = true → t.a = t'.a ∧ t.flags.z = t'.flags.z ∧ t.flags.n = t'.flags.n)

/-- R80, R150: no instruction reads the cycle counter: started with another value it does the same and debits the same. -/
def Obligations.InstructionsDoNotReadTheCounter : Prop :=
  ∀ (i : Instr) (s : State) (c : Int),
    exec i { s with cycles := c } = mapNext (fun t => { t with cycles := c - (s.cycles - t.cycles) }) (exec i s)

/-- R179: every instruction debits exactly what the table says. -/
def Obligations.CostTable : Prop :=
  ∀ (i : Instr) (s t : State), exec i s = .next t →
    s.cycles - t.cycles = match i with
      | .ldaImm _ => 2
      | .ldaZp _ => 3
      | .ldaZpX _ => 4
      | .ldaAbs _ => 4
      | .ldaAbsX base => if (base.toNat + s.x.toNat) % 65536 / 256 = base.toNat / 256 then 4 else 5
      | .ldaAbsY base => if (base.toNat + s.y.toNat) % 65536 / 256 = base.toNat / 256 then 4 else 5
      | .jsr _ => 6
      | .unrecognised _ => 1

/-- R32: a step appends the event of an unrecognised opcode and nothing else; no other operation writes the log, and no
instruction reads it. An event's content is the spec's decision D11 (notes/assumptions/5.md). -/
def Obligations.DiagnosticLogOnlyGrowsByUnrecognised : Prop :=
  (∀ s t : State, step s = .next t →
    t.diag = s.diag ++ if decodeOpcode (s.mem.get s.pc.toNat) = .unrecognised
      then [⟨s.pc, s.mem.get s.pc.toNat⟩] else []) ∧
  (∀ (p : Config.Params) (op : HostOp) (s t : State) (v : HostValue), perform p op s = .returned v t →
    ∃ events, t.diag = s.diag ++ events ∧ (∀ e ∈ events, decodeOpcode e.opcode = .unrecognised) ∧
      (op.name ≠ .execute → events = [])) ∧
  (∀ (i : Instr) (s : State) (d : List DiagEvent), exec i { s with diag := d ++ s.diag } =
    mapNext (fun t => { t with diag := d ++ t.diag }) (exec i s))

/-! ### Invariants -/

/-- The invariant holds right after Reset, whatever the parameters. The default parameters are the model's choice
(notes/assumptions/1.md, 2.md); nothing here rests on them. -/
def Obligations.ResetMeetsInvariant : Prop :=
  State.reset.Inv ∧ ∀ p : Config.Params, (State.resetWith p []).Inv

/-- Every step keeps the invariant: memory canonical inside the address space, the log naming unrecognised bytes only. -/
def Obligations.StepKeepsInvariant : Prop :=
  ∀ s t : State, s.Inv → step s = .next t → t.Inv

/-- Every host operation keeps it too, Execute and its whole loop among them, and leaves no counter behind (R80; the field
and its 0 are the model's own choice, notes/assumptions/3.md). -/
def Obligations.HostOperationsKeepInvariant : Prop :=
  ∀ (p : Config.Params) (op : HostOp) (s t : State), s.Inv →
    (∃ v, perform p op s = .returned v t) ∨ (∃ f, perform p op s = .faulted f t) →
    t.Inv ∧ (s.cycles = 0 → t.cycles = 0)

/-- Along any run from construction, whatever the machine held there, a Ready session's state meets the invariant. That
the counter field is 0 there is the model's own choice (notes/assumptions/3.md). -/
def Obligations.ReadyRunsMeetInvariant : Prop :=
  ∀ (p : Config.Params) (ops : List HostOp) (s : State), s.Constructed →
    (runOps p ops s).final.session = .ready → (runOps p ops s).final.Inv ∧ (runOps p ops s).final.cycles = 0

/-! ### Execute -/

/-- R89: a budget of 0 or less fetches nothing, changes nothing and returns 0. The model's own counter field, which R20 does
not list, is 0 between operations (notes/assumptions/3.md). -/
def Obligations.NonPositiveBudgetDoesNothing : Prop :=
  ∀ (p : Config.Params) (s : State) (budget : Int), s.session = .ready → budget ≤ 0 →
    perform p (.execute budget) s = .returned (.int 0) { s with cycles := 0 } ∧
    (s.cycles = 0 → perform p (.execute budget) s = .returned (.int 0) s)

/-- R85, R90: Execute is the loop: it makes the passes the unbounded loop makes, no others, at most as many as the budget,
and then returns. That the counter field is 0 in the state it leaves is the model's own choice (notes/assumptions/3.md). -/
def Obligations.ExecuteIsTheBudgetedLoop : Prop :=
  ∀ (p : Config.Params) (s : State) (budget : Int), s.session = .ready →
    ∃ (costs : List Int) (t : State), Passes costs { s with cycles := budget } t ∧
      perform p (.execute budget) s = .returned (.int (budget - t.cycles)) { t with cycles := 0 } ∧
      (costs.length : Int) ≤ max budget 0 ∧
      ∀ (costs' : List Int) (t' : State), Passes costs' { s with cycles := budget } t' → costs' = costs ∧ t' = t

/-- R86: the result is budget - cycles, for a budget of 1 or more the sum of the costs of the instructions run, at least the
budget and at most the budget plus the last one's cost less 1, so at most budget + 5 (the spec's own
inference from R85 and R87). That the counter field is 0 in the state left is the model's own choice
(notes/assumptions/3.md). -/
def Obligations.ExecuteResultBounds : Prop :=
  ∀ (p : Config.Params) (s : State) (budget : Int), s.session = .ready → 1 ≤ budget →
    ∃ (costs : List Int) (last used : Int) (t : State),
      Passes (costs ++ [last]) { s with cycles := budget } t ∧
      perform p (.execute budget) s = .returned (.int used) { t with cycles := 0 } ∧
      used = budget - t.cycles ∧ used = (costs ++ [last]).sum ∧
      budget ≤ used ∧ used ≤ budget + last - 1 ∧ used ≤ budget + 5

/-- R153: Execute with budget 1 runs exactly one instruction, the one at PC, and returns its cost: the spec's own inference
from R85 and R87. That the counter field is 0 in the state left is the model's own choice (notes/assumptions/3.md). -/
def Obligations.ExecuteOneIsOneStep : Prop :=
  ∀ (p : Config.Params) (s : State), s.session = .ready → ∃ t,
    step { s with cycles := 1 } = .next t ∧
    perform p (.execute 1) s = .returned (.int (cost (fetchInstr s) s)) { t with cycles := 0 }

/-! ### Memory -/

/-- R41: both byte operations check the address and raise OutOfBounds with it; otherwise they read and write that byte.
The typed fault is the spec's decision D7 (notes/assumptions/6.md). -/
def Obligations.ByteOperationsAreBoundsChecked : Prop :=
  ∀ (m : Memory) (addr : Nat) (v : Byte), m.wf →
    (65536 ≤ addr → memRead addr m = .error (.outOfBounds addr) ∧ memWrite addr v m = .error (.outOfBounds addr)) ∧
    (addr < 65536 → memRead addr m = .ok (m.get addr) ∧
      ∃ m', memWrite addr v m = .ok m' ∧ m'.get addr = v)

/-- R42: every address is plain storage, and a host Read changes nothing. -/
def Obligations.MemoryIsPlainStorage : Prop :=
  (∀ (m m' : Memory) (addr : Nat) (v : Byte), m.wf → memWrite addr v m = .ok m' →
    m'.wf ∧ memRead addr m' = .ok v ∧ (∀ other, other ≠ addr → memRead other m' = memRead other m) ∧
    (memRead addr m = .ok v → m' = m)) ∧
  (∀ (p : Config.Params) (s : State) (addr : Nat), s.session = .ready → addr < 65536 →
    perform p (.read addr) s = .returned (.nat (s.mem.get addr).toNat) s)

/-- Two memories in canonical form that read alike everywhere are the same data. -/
def Obligations.EqualBytesAreEqualMemories : Prop :=
  ∀ m m' : Memory, m.wf → m'.wf → (∀ addr, m.get addr = m'.get addr) → m = m'

/-- R43: Initialise sets every byte to 0, leaves the rest and never fails; Reset does it too. That a counter
field of 0 between operations stays 0 across Reset rests on the model's own field and value (notes/assumptions/3.md). -/
def Obligations.InitialiseZeroesMemory : Prop :=
  (∀ (p : Config.Params) (s : State), s.session = .ready →
    perform p .initialise s = .returned .unit { s with mem := [] }) ∧
  (∀ addr : Nat, Memory.get [] addr = 0x00) ∧
  (∀ (p : Config.Params) (s t : State) (v : HostValue), perform p .reset s = .returned v t →
    (∀ addr : Nat, t.mem.get addr = 0x00) ∧ (s.cycles = 0 → t.cycles = s.cycles))

/-- R44: WriteWord, low byte first, 2 cycles off the caller's counter; both addresses are checked before either byte is
written, so at 0xFFFF it faults on 0x10000 and writes nothing (the spec's decision D17). -/
def Obligations.WriteWordWritesLittleEndian : Prop :=
  (∀ (p : Config.Params) (s : State) (cycles : Int) (value : Word) (addr : Nat), s.session = .ready → s.mem.wf →
    addr < 65535 → ∃ m, perform p (.writeWord cycles value addr) s = .returned (.int (cycles - 2)) { s with mem := m } ∧
      ∀ b : Nat, m.get b = if b = addr then value.extractLsb' 0 8
        else if b = addr + 1 then value.extractLsb' 8 8 else s.mem.get b) ∧
  (∀ (p : Config.Params) (s : State) (cycles : Int) (value : Word), s.session = .ready →
    perform p (.writeWord cycles value 0xFFFF) s =
      .faulted (.outOfBounds 0x10000) { s with session := .faulted (.outOfBounds 0x10000) }) ∧
  (∀ (p : Config.Params) (s : State) (cycles : Int) (value : Word) (addr : Nat), s.session = .ready → 65536 ≤ addr →
    perform p (.writeWord cycles value addr) s =
      .faulted (.outOfBounds addr) { s with session := .faulted (.outOfBounds addr) })

/-- R46: two MemReads give back what WriteWord wrote, low byte at the lower address. -/
def Obligations.WriteWordReadsBack : Prop :=
  ∀ (m m' : Memory) (cycles c : Int) (value : Word) (addr : Nat), m.wf →
    writeWord cycles value addr m = .ok (m', c) →
    ∃ lo hi : Byte, memRead addr m' = .ok lo ∧ memRead (addr + 1) m' = .ok hi ∧
      lo.toNat + 256 * hi.toNat = value.toNat ∧ c = cycles - 2

/-! ### Reset and the host -/

/-- R35, R170: what Reset leaves in a session that is not Faulted, for every value of the parameters; in a Faulted one it
has no step (the spec's decision D7), and the log stays as it was (its D11; notes/assumptions/5.md, 6.md). The clause on the
counter rests on the model's own field and its 0 between operations (notes/assumptions/3.md). -/
def Obligations.ResetGivesEveryFieldItsValue : Prop :=
  (∀ (p : Config.Params) (s : State), s.session = .unreset ∨ s.session = .ready →
    ∃ t, perform p .reset s = .returned .unit t ∧ t.pc = p.resetPc ∧ t.sp = p.resetSp ∧
      t.a = 0 ∧ t.x = 0 ∧ t.y = 0 ∧ (∀ f : FlagName, t.flags.get f = false) ∧
      (∀ addr : Nat, t.mem.get addr = 0x00) ∧ t.session = .ready ∧ t.diag = s.diag ∧
      (s.cycles = 0 → t.cycles = s.cycles)) ∧
  (∀ (p : Config.Params) (s : State) (f : Fault), s.session = .faulted f →
    perform p .reset s = .noStep (.sessionFaulted f))

/-- R55, R171, R173: after Reset, an opcode and its operand bytes the host writes at RESET_PC are what the next step runs:
fetch sees the writes, and no pointer is read. -/
def Obligations.ProgramWrittenAtResetPcRuns : Prop :=
  ∀ (p : Config.Params) (s : State) (op b1 b2 : Byte), s.session = .unreset ∨ s.session = .ready →
    ∃ u, (runOps p [.reset, .write p.resetPc.toNat op.toNat, .write (p.resetPc + 1).toNat b1.toNat,
        .write (p.resetPc + 2).toNat b2.toNat] s) = ⟨[.unit, .unit, .unit, .unit], u, none⟩ ∧
      u.pc = p.resetPc ∧ step u = exec (assemble op b1 b2) u

/-- R174: in a Ready session the reads answer the value the state holds and change nothing; ReadDiag answers the log and
changes nothing in any session (R34 excepts it in Unreset); ReadFault has no step where no fault is recorded, in Unreset too
(the model's reading of R174 and R34, notes/assumptions/12.md). -/
def Obligations.HostReadsChangeNothing : Prop :=
  (∀ (p : Config.Params) (s : State), s.session = .ready →
    perform p (.readReg .pc) s = .returned (.nat s.pc.toNat) s ∧
    perform p (.readReg .sp) s = .returned (.nat s.sp.toNat) s ∧
    perform p (.readReg .a) s = .returned (.nat s.a.toNat) s ∧
    perform p (.readReg .x) s = .returned (.nat s.x.toNat) s ∧
    perform p (.readReg .y) s = .returned (.nat s.y.toNat) s ∧
    perform p (.readFlag .c) s = .returned (.nat (if s.flags.c then 1 else 0)) s ∧
    perform p (.readFlag .z) s = .returned (.nat (if s.flags.z then 1 else 0)) s ∧
    perform p (.readFlag .i) s = .returned (.nat (if s.flags.i then 1 else 0)) s ∧
    perform p (.readFlag .d) s = .returned (.nat (if s.flags.d then 1 else 0)) s ∧
    perform p (.readFlag .b) s = .returned (.nat (if s.flags.b then 1 else 0)) s ∧
    perform p (.readFlag .v) s = .returned (.nat (if s.flags.v then 1 else 0)) s ∧
    perform p (.readFlag .n) s = .returned (.nat (if s.flags.n then 1 else 0)) s ∧
    (∀ addr < 65536, perform p (.read addr) s = .returned (.nat (s.mem.get addr).toNat) s)) ∧
  (∀ (p : Config.Params) (s : State), perform p .readDiag s = .returned (.log s.diag) s) ∧
  (∀ (p : Config.Params) (s : State), s.session = .unreset ∨ s.session = .ready →
    perform p .readFault s = .noStep .noFaultRecorded)

/-- R174, R33: in a Ready session a write of a value that fits reads back, and changes no other register, flag or byte. -/
def Obligations.HostWritesOneTarget : Prop :=
  (∀ (p : Config.Params) (s : State) (r : RegName) (k : Nat), s.session = .ready → k < 2 ^ r.width →
    ∃ t, perform p (.writeReg r k) s = .returned .unit t ∧ t.readReg r = k ∧
      (∀ q ≠ r, t.readReg q = s.readReg q) ∧
      t.flags = s.flags ∧ t.mem = s.mem ∧ t.session = s.session ∧ t.diag = s.diag ∧ t.cycles = s.cycles) ∧
  (∀ (p : Config.Params) (s : State) (addr k : Nat), s.session = .ready → s.mem.wf → addr < 65536 → k < 256 →
    ∃ m, perform p (.write addr k) s = .returned .unit { s with mem := m } ∧ (m.get addr).toNat = k ∧
      ∀ other ≠ addr, m.get other = s.mem.get other)

/-- R41, R140, R174: in a Ready session a host Read, or a Write of a value that fits, at 65536 or above faults with
OutOfBounds and that address, and leaves every field as it was but the session, which is Faulted. The typed fault that ends the
session is the spec's decision D7 (notes/assumptions/6.md). -/
def Obligations.HostAccessPastMemoryFaults : Prop :=
  ∀ (p : Config.Params) (s : State) (addr : Nat), s.session = .ready → 65536 ≤ addr →
    perform p (.read addr) s =
      .faulted (.outOfBounds addr) { s with session := .faulted (.outOfBounds addr) } ∧
    ∀ v < 256, perform p (.write addr v) s =
      .faulted (.outOfBounds addr) { s with session := .faulted (.outOfBounds addr) }

/-- R175: a host value that does not fit is refused, and nothing is written: the spec's decision D14
(notes/assumptions/6.md). A Write is stated at the addresses of memory only: for a wide value past them the spec gives no order
between R175 and R41 (notes/assumptions/7.md). -/
def Obligations.HostRefusesWideValues : Prop :=
  ∀ (p : Config.Params) (s : State) (k : Nat), s.session = .ready →
    (65536 ≤ k → perform p (.writeReg .pc k) s = .noStep (.valueTooWide .writeReg k)) ∧
    (256 ≤ k → ∀ r : RegName, r ≠ .pc → perform p (.writeReg r k) s = .noStep (.valueTooWide .writeReg k)) ∧
    (1 < k → ∀ f : FlagName, perform p (.writeFlag f k) s = .noStep (.valueTooWide .writeFlag k)) ∧
    (256 ≤ k → ∀ addr < 65536, perform p (.write addr k) s = .noStep (.valueTooWide .write k))

/-- R34: before the first Reset every operation but Reset, ReadDiag and ReadFault faults with UseBeforeReset: the spec's
decision D8 (notes/assumptions/6.md). -/
def Obligations.UseBeforeResetFaults : Prop :=
  ∀ (p : Config.Params) (op : HostOp) (s : State), s.session = .unreset →
    op.name ≠ .reset → op.name ≠ .readDiag → op.name ≠ .readFault →
    perform p op s = .faulted (.useBeforeReset op.name) { s with session := .faulted (.useBeforeReset op.name) }

/-- R34: nothing the machine holds before its first Reset shows in the results of any run. -/
def Obligations.ContentsBeforeResetNeverShow : Prop :=
  ∀ (p : Config.Params) (ops : List HostOp) (s u : State), s.Constructed → u.Constructed →
    (runOps p ops s).results = (runOps p ops u).results ∧ (runOps p ops s).stuck = (runOps p ops u).stuck ∧
    (runOps p ops s).final.session = (runOps p ops u).final.session ∧
    (runOps p ops s).final.diag = (runOps p ops u).final.diag

/-- R142, R144, R146: in a Faulted session nothing has a step but ReadDiag and ReadFault, which change nothing; ReadFault
gives the code and the info of R140. -/
def Obligations.FaultedSessionIsFrozen : Prop :=
  ∀ (p : Config.Params) (op : HostOp) (s : State) (f : Fault), s.session = .faulted f →
    (op = .readDiag → perform p op s = .returned (.log s.diag) s) ∧
    (op = .readFault → perform p op s = .returned (.faultRecord (match f with
      | .outOfBounds _ => 1
      | .useBeforeReset _ => 2) f) s) ∧
    (op ≠ .readDiag → op ≠ .readFault → perform p op s = .noStep (.sessionFaulted f))

/-- R145, R142: a fault leaves exactly the state before the faulting access, with the session Faulted (the spec's own
inference from R142, its decision D7). -/
def Obligations.FaultsArePrecise : Prop :=
  ∀ (p : Config.Params) (op : HostOp) (s t : State) (f : Fault), perform p op s = .faulted f t →
    t = { s with session := .faulted f }

/-- R31: the lifecycle: Reset makes a session Ready, a fault makes it Faulted for good, nothing else changes it, and no
instruction reads it. That a Faulted session keeps its whole state under every run and that Reset has no step there are R142's
and R170's, the spec's decision D7 (notes/assumptions/6.md). -/
def Obligations.SessionLifecycle : Prop :=
  (∀ (p : Config.Params) (op : HostOp) (s t : State) (v : HostValue), perform p op s = .returned v t →
    (op = .reset → t.session = .ready ∧ (s.session = .unreset ∨ s.session = .ready)) ∧
    (op ≠ .reset → t.session = s.session)) ∧
  (∀ (p : Config.Params) (op : HostOp) (s t : State) (f : Fault), perform p op s = .faulted f t →
    t.session = .faulted f) ∧
  (∀ (p : Config.Params) (ops : List HostOp) (s : State) (f : Fault), s.session = .faulted f →
    (runOps p ops s).final = s) ∧
  (∀ (i : Instr) (s : State) (w : Session), exec i { s with session := w } =
    mapNext (fun t => { t with session := w }) (exec i s))
end

