-- ==== Sys2Proof/Laws/Decode.lean ====
section
/-! SUPPORT. The decoder and the byte-order helpers. -/

namespace Sys2Proof

@[simp] theorem loByte_wordOfBytes (lo hi : Byte) : loByte (wordOfBytes lo hi) = lo := by
  unfold loByte wordOfBytes zext16
  apply BitVec.eq_of_getLsbD_eq
  intro i hi'
  simp [hi', show i < 16 by omega]

@[simp] theorem hiByte_wordOfBytes (lo hi : Byte) : hiByte (wordOfBytes lo hi) = hi := by
  unfold hiByte wordOfBytes zext16
  apply BitVec.eq_of_getLsbD_eq
  intro i hi'
  simp [hi', show 8 + i < 16 by omega]

@[simp] theorem wordOfBytes_lo_hi (w : Word) : wordOfBytes (loByte w) (hiByte w) = w := by
  unfold wordOfBytes loByte hiByte zext16
  apply BitVec.eq_of_getLsbD_eq
  intro i hi'
  by_cases h : i < 8
  · simp [h, hi']
  · simp [h, hi', show 8 + (i - 8) = i by omega, show i - 8 < 8 by omega]

/-- The decoder's outcomes, one by one: the byte is that of the row, or of none (R63, R64). -/
theorem decodeOpcode_eq (b : Byte) : decodeOpcode b =
    if b = 0xA9 then .ldaImm else if b = 0xA5 then .ldaZp else if b = 0xB5 then .ldaZpX
    else if b = 0xAD then .ldaAbs else if b = 0xBD then .ldaAbsX else if b = 0xB9 then .ldaAbsY
    else if b = 0x20 then .jsr else .unrecognised := by
  revert b; decide

/-- An outcome but the unrecognised one comes from its row's byte only (R63). -/
theorem eq_code_of_decodeOpcode (b : Byte) : ∀ r ∈ opcodeTable, decodeOpcode b = r.opcode → b = r.code := by
  revert b; decide

/-- The instruction assembled from an opcode byte has that byte's opcode. -/
@[simp] theorem assemble_opcode (op b1 b2 : Byte) : (assemble op b1 b2).opcode = decodeOpcode op := by
  unfold assemble
  split <;> simp_all [Instr.opcode]

/-- The decoder answers well-formed instructions only. -/
theorem assemble_wf (op b1 b2 : Byte) : (assemble op b1 b2).WellFormed := by
  unfold assemble Instr.WellFormed
  split <;> simp_all [Instr.wellFormed]

/-- Three bytes always hold a whole instruction. -/
theorem decode_three (op b1 b2 : Byte) (rest : List Byte) : decode (op :: b1 :: b2 :: rest) =
    .ok (assemble op b1 b2, (b1 :: b2 :: rest).drop ((decodeOpcode op).format.length - 1)) := by
  have h : (decodeOpcode op).format.length - 1 ≤ 2 := by cases decodeOpcode op <;> decide
  simp [decode, show ¬ rest.length + 1 + 1 < (decodeOpcode op).format.length - 1 by omega]

theorem Instr.length_pos (i : Instr) : 1 ≤ i.length := by
  unfold Instr.length; cases i.opcode <;> decide

end Sys2Proof
end

