-- ==== Sys2Proof/Laws/Memory.lean ====
section
/-! SUPPORT. The laws of memory: a read after a write, and that every operation keeps the canonical form. -/

namespace Sys2Proof.Machine

@[simp] theorem Memory.get_nil (addr : Nat) : Memory.get [] addr = Memory.unwritten := rfl

/-- An address below every listed one reads as unwritten. -/
theorem Memory.get_of_lt {m : Memory} {addr : Nat} (h : ∀ c ∈ m, addr < c.1) : m.get addr = Memory.unwritten := by
  induction m with
  | nil => rfl
  | cons c rest ih =>
    have hc := h c (by simp)
    simp only [Memory.get, if_neg (show ¬ c.1 = addr by omega)]
    exact ih fun d hd => h d (by simp [hd])

theorem Memory.wf_nil : Memory.wf [] := by simp [Memory.wf]

theorem Memory.wf_tail {c : Host.Cell} {rest : Memory} (h : Memory.wf (c :: rest)) : Memory.wf rest :=
  ⟨(List.pairwise_cons.1 h.1).2, fun d hd => h.2 d (by simp [hd])⟩

theorem Memory.lt_of_wf_cons {c : Host.Cell} {rest : Memory} (h : Memory.wf (c :: rest)) :
    ∀ d ∈ rest, c.1 < d.1 := (List.pairwise_cons.1 h.1).1

theorem Memory.mem_cell {addr : Nat} {v : Byte} {c : Host.Cell} (h : c ∈ Memory.cell addr v) :
    c = (addr, v) ∧ v ≠ Memory.unwritten := by
  unfold Memory.cell at h
  split at h
  · simp at h
  · exact ⟨by simpa using h, ‹_›⟩

/-- Every entry after a write is an old one or the one written. -/
theorem Memory.mem_set {m : Memory} {addr : Nat} {v : Byte} {c : Host.Cell} (h : c ∈ m.set addr v) :
    c ∈ m ∨ (c = (addr, v) ∧ v ≠ Memory.unwritten) := by
  induction m with
  | nil => exact .inr (Memory.mem_cell h)
  | cons d rest ih =>
    simp only [Memory.set] at h
    split at h
    · rcases List.mem_append.1 h with h | h
      · exact .inr (Memory.mem_cell h)
      · exact .inl h
    · split at h
      · rcases List.mem_append.1 h with h | h
        · exact .inr (Memory.mem_cell h)
        · exact .inl (List.mem_cons_of_mem _ h)
      · rcases List.mem_cons.1 h with rfl | h
        · exact .inl (by simp)
        · exact (ih h).imp (List.mem_cons_of_mem _) id

theorem Memory.get_cell_append (addr : Nat) (v : Byte) (m : Memory) (b : Nat) :
    Memory.get (Memory.cell addr v ++ m) b = if addr = b ∧ v ≠ Memory.unwritten then v else m.get b := by
  unfold Memory.cell
  split
  · simp [*]
  · simp [Memory.get, *]

/-- A write in canonical form: the byte written reads back, and every other byte reads as before. -/
theorem Memory.get_set {m : Memory} (hm : m.wf) (addr : Nat) (v : Byte) (b : Nat) :
    (m.set addr v).get b = if b = addr then v else m.get b := by
  induction m with
  | nil =>
    have := Memory.get_cell_append addr v [] b
    simp only [List.append_nil] at this
    simp only [Memory.set, this, Memory.get_nil]
    by_cases hb : addr = b <;> by_cases hv : v = Memory.unwritten <;> simp [hb, hv, eq_comm]
  | cons c rest ih =>
    obtain ⟨k, w⟩ := c
    have hlt := Memory.lt_of_wf_cons hm
    have ih := ih (Memory.wf_tail hm)
    simp only [Memory.set]
    split
    · rename_i hk
      have hun : b = addr → Memory.get ((k, w) :: rest) b = Memory.unwritten := fun hb =>
        Memory.get_of_lt fun d hd => by
          rcases List.mem_cons.1 hd with rfl | hd
          · simpa [hb] using hk
          · have := hlt d hd; simp only at this; omega
      rw [Memory.get_cell_append]
      by_cases hb : b = addr
      · by_cases hv : v = Memory.unwritten
        · simpa [hb, hv] using hb ▸ hun hb
        · simp [hb, hv]
      · simp [hb, show ¬ addr = b from fun h => hb h.symm]
    · split
      · rename_i _ hk
        have hun : b = addr → Memory.get rest b = Memory.unwritten := fun hb =>
          Memory.get_of_lt fun d hd => by have := hlt d hd; simp only at this; omega
        rw [Memory.get_cell_append, Memory.get]
        by_cases hb : b = addr
        · by_cases hv : v = Memory.unwritten
          · have h0 := hun hb
            rw [hb, hk] at h0
            simpa [hb, hv, hk] using h0
          · simp [hb, hv]
        · have h1 : ¬ addr = b := fun h => hb h.symm
          have h2 : ¬ k = b := by omega
          simp [hb, h1, h2]
      · rename_i _ hk
        simp only [Memory.get, ih]
        by_cases hb : b = addr
        · have h2 : ¬ k = b := by omega
          simp [hb, show ¬ k = addr by omega]
        · simp [hb]

/-- A write inside the address space keeps the canonical form. -/
theorem Memory.set_wf {m : Memory} (hm : m.wf) {addr : Nat} (ha : addr < Config.memCapacity) (v : Byte) :
    (m.set addr v).wf := by
  refine ⟨?_, fun c hc => ?_⟩
  · induction m with
    | nil => unfold Memory.set Memory.cell; split <;> simp
    | cons c rest ih =>
      obtain ⟨k, w⟩ := c
      have hlt := Memory.lt_of_wf_cons hm
      have htail := (Memory.wf_tail hm).1
      simp only [Memory.set]
      split
      · rename_i hk
        rw [List.pairwise_append]
        refine ⟨by unfold Memory.cell; split <;> simp, hm.1, fun c hc d hd => ?_⟩
        rw [(Memory.mem_cell hc).1]
        rcases List.mem_cons.1 hd with rfl | hd
        · exact hk
        · have := hlt d hd; simp only at this ⊢; omega
      · split
        · rename_i _ hk
          rw [List.pairwise_append]
          refine ⟨by unfold Memory.cell; split <;> simp, htail, fun c hc d hd => ?_⟩
          rw [(Memory.mem_cell hc).1]
          have := hlt d hd; simp only at this ⊢; omega
        · rename_i h1 h2
          refine List.pairwise_cons.2 ⟨fun d hd => ?_, ih (Memory.wf_tail hm)⟩
          rcases Memory.mem_set hd with hd | ⟨rfl, _⟩
          · exact hlt d hd
          · simp only; omega
  · rcases Memory.mem_set hc with hc | ⟨rfl, hv⟩
    · exact hm.2 c hc
    · exact ⟨ha, hv⟩

theorem initialise_wf : Memory.wf initialise := Memory.wf_nil

theorem memWrite_wf {addr : Nat} {v : Byte} {m m' : Memory} (hm : m.wf) (h : memWrite addr v m = .ok m') :
    m'.wf := by
  unfold memWrite at h
  split at h
  · cases h
  · cases h; exact Memory.set_wf hm (by omega) v

theorem writeWord_wf {cycles : Int} {value : Word} {addr : Nat} {m : Memory} {r : Memory × Int} (hm : m.wf)
    (h : writeWord cycles value addr m = .ok r) : r.1.wf := by
  unfold writeWord at h
  split at h
  · cases h
  · split at h
    · cases h
    · cases h; exact Memory.set_wf (Memory.set_wf hm (by omega) _) (by omega) _

end Sys2Proof.Machine
end

