-- ==== Sys2Proof/Laws/State.lean ====
section
/-! SUPPORT. What each state update writes and leaves: one lemma per field per update, each true by `rfl`. -/

namespace Sys2Proof.Machine

/-! ### setPc -/

@[simp] theorem State.setPc_pc (s : State) (v : Word) : (s.setPc v).pc = v := rfl
@[simp] theorem State.setPc_sp (s : State) (v : Word) : (s.setPc v).sp = s.sp := rfl
@[simp] theorem State.setPc_a (s : State) (v : Word) : (s.setPc v).a = s.a := rfl
@[simp] theorem State.setPc_x (s : State) (v : Word) : (s.setPc v).x = s.x := rfl
@[simp] theorem State.setPc_y (s : State) (v : Word) : (s.setPc v).y = s.y := rfl
@[simp] theorem State.setPc_flags (s : State) (v : Word) : (s.setPc v).flags = s.flags := rfl
@[simp] theorem State.setPc_mem (s : State) (v : Word) : (s.setPc v).mem = s.mem := rfl
@[simp] theorem State.setPc_session (s : State) (v : Word) : (s.setPc v).session = s.session := rfl
@[simp] theorem State.setPc_diag (s : State) (v : Word) : (s.setPc v).diag = s.diag := rfl
@[simp] theorem State.setPc_cycles (s : State) (v : Word) : (s.setPc v).cycles = s.cycles := rfl

/-! ### setSp -/

@[simp] theorem State.setSp_pc (s : State) (v : Byte) : (s.setSp v).pc = s.pc := rfl
@[simp] theorem State.setSp_sp (s : State) (v : Byte) : (s.setSp v).sp = v := rfl
@[simp] theorem State.setSp_a (s : State) (v : Byte) : (s.setSp v).a = s.a := rfl
@[simp] theorem State.setSp_x (s : State) (v : Byte) : (s.setSp v).x = s.x := rfl
@[simp] theorem State.setSp_y (s : State) (v : Byte) : (s.setSp v).y = s.y := rfl
@[simp] theorem State.setSp_flags (s : State) (v : Byte) : (s.setSp v).flags = s.flags := rfl
@[simp] theorem State.setSp_mem (s : State) (v : Byte) : (s.setSp v).mem = s.mem := rfl
@[simp] theorem State.setSp_session (s : State) (v : Byte) : (s.setSp v).session = s.session := rfl
@[simp] theorem State.setSp_diag (s : State) (v : Byte) : (s.setSp v).diag = s.diag := rfl
@[simp] theorem State.setSp_cycles (s : State) (v : Byte) : (s.setSp v).cycles = s.cycles := rfl

/-! ### setA -/

@[simp] theorem State.setA_pc (s : State) (v : Byte) : (s.setA v).pc = s.pc := rfl
@[simp] theorem State.setA_sp (s : State) (v : Byte) : (s.setA v).sp = s.sp := rfl
@[simp] theorem State.setA_a (s : State) (v : Byte) : (s.setA v).a = v := rfl
@[simp] theorem State.setA_x (s : State) (v : Byte) : (s.setA v).x = s.x := rfl
@[simp] theorem State.setA_y (s : State) (v : Byte) : (s.setA v).y = s.y := rfl
@[simp] theorem State.setA_flags (s : State) (v : Byte) : (s.setA v).flags = s.flags := rfl
@[simp] theorem State.setA_mem (s : State) (v : Byte) : (s.setA v).mem = s.mem := rfl
@[simp] theorem State.setA_session (s : State) (v : Byte) : (s.setA v).session = s.session := rfl
@[simp] theorem State.setA_diag (s : State) (v : Byte) : (s.setA v).diag = s.diag := rfl
@[simp] theorem State.setA_cycles (s : State) (v : Byte) : (s.setA v).cycles = s.cycles := rfl

/-! ### setX -/

@[simp] theorem State.setX_pc (s : State) (v : Byte) : (s.setX v).pc = s.pc := rfl
@[simp] theorem State.setX_sp (s : State) (v : Byte) : (s.setX v).sp = s.sp := rfl
@[simp] theorem State.setX_a (s : State) (v : Byte) : (s.setX v).a = s.a := rfl
@[simp] theorem State.setX_x (s : State) (v : Byte) : (s.setX v).x = v := rfl
@[simp] theorem State.setX_y (s : State) (v : Byte) : (s.setX v).y = s.y := rfl
@[simp] theorem State.setX_flags (s : State) (v : Byte) : (s.setX v).flags = s.flags := rfl
@[simp] theorem State.setX_mem (s : State) (v : Byte) : (s.setX v).mem = s.mem := rfl
@[simp] theorem State.setX_session (s : State) (v : Byte) : (s.setX v).session = s.session := rfl
@[simp] theorem State.setX_diag (s : State) (v : Byte) : (s.setX v).diag = s.diag := rfl
@[simp] theorem State.setX_cycles (s : State) (v : Byte) : (s.setX v).cycles = s.cycles := rfl

/-! ### setY -/

@[simp] theorem State.setY_pc (s : State) (v : Byte) : (s.setY v).pc = s.pc := rfl
@[simp] theorem State.setY_sp (s : State) (v : Byte) : (s.setY v).sp = s.sp := rfl
@[simp] theorem State.setY_a (s : State) (v : Byte) : (s.setY v).a = s.a := rfl
@[simp] theorem State.setY_x (s : State) (v : Byte) : (s.setY v).x = s.x := rfl
@[simp] theorem State.setY_y (s : State) (v : Byte) : (s.setY v).y = v := rfl
@[simp] theorem State.setY_flags (s : State) (v : Byte) : (s.setY v).flags = s.flags := rfl
@[simp] theorem State.setY_mem (s : State) (v : Byte) : (s.setY v).mem = s.mem := rfl
@[simp] theorem State.setY_session (s : State) (v : Byte) : (s.setY v).session = s.session := rfl
@[simp] theorem State.setY_diag (s : State) (v : Byte) : (s.setY v).diag = s.diag := rfl
@[simp] theorem State.setY_cycles (s : State) (v : Byte) : (s.setY v).cycles = s.cycles := rfl

/-! ### setFlags -/

@[simp] theorem State.setFlags_pc (s : State) (v : Flags) : (s.setFlags v).pc = s.pc := rfl
@[simp] theorem State.setFlags_sp (s : State) (v : Flags) : (s.setFlags v).sp = s.sp := rfl
@[simp] theorem State.setFlags_a (s : State) (v : Flags) : (s.setFlags v).a = s.a := rfl
@[simp] theorem State.setFlags_x (s : State) (v : Flags) : (s.setFlags v).x = s.x := rfl
@[simp] theorem State.setFlags_y (s : State) (v : Flags) : (s.setFlags v).y = s.y := rfl
@[simp] theorem State.setFlags_flags (s : State) (v : Flags) : (s.setFlags v).flags = v := rfl
@[simp] theorem State.setFlags_mem (s : State) (v : Flags) : (s.setFlags v).mem = s.mem := rfl
@[simp] theorem State.setFlags_session (s : State) (v : Flags) : (s.setFlags v).session = s.session := rfl
@[simp] theorem State.setFlags_diag (s : State) (v : Flags) : (s.setFlags v).diag = s.diag := rfl
@[simp] theorem State.setFlags_cycles (s : State) (v : Flags) : (s.setFlags v).cycles = s.cycles := rfl

/-! ### setMem -/

@[simp] theorem State.setMem_pc (s : State) (v : Memory) : (s.setMem v).pc = s.pc := rfl
@[simp] theorem State.setMem_sp (s : State) (v : Memory) : (s.setMem v).sp = s.sp := rfl
@[simp] theorem State.setMem_a (s : State) (v : Memory) : (s.setMem v).a = s.a := rfl
@[simp] theorem State.setMem_x (s : State) (v : Memory) : (s.setMem v).x = s.x := rfl
@[simp] theorem State.setMem_y (s : State) (v : Memory) : (s.setMem v).y = s.y := rfl
@[simp] theorem State.setMem_flags (s : State) (v : Memory) : (s.setMem v).flags = s.flags := rfl
@[simp] theorem State.setMem_mem (s : State) (v : Memory) : (s.setMem v).mem = v := rfl
@[simp] theorem State.setMem_session (s : State) (v : Memory) : (s.setMem v).session = s.session := rfl
@[simp] theorem State.setMem_diag (s : State) (v : Memory) : (s.setMem v).diag = s.diag := rfl
@[simp] theorem State.setMem_cycles (s : State) (v : Memory) : (s.setMem v).cycles = s.cycles := rfl

/-! ### setSession -/

@[simp] theorem State.setSession_pc (s : State) (v : Session) : (s.setSession v).pc = s.pc := rfl
@[simp] theorem State.setSession_sp (s : State) (v : Session) : (s.setSession v).sp = s.sp := rfl
@[simp] theorem State.setSession_a (s : State) (v : Session) : (s.setSession v).a = s.a := rfl
@[simp] theorem State.setSession_x (s : State) (v : Session) : (s.setSession v).x = s.x := rfl
@[simp] theorem State.setSession_y (s : State) (v : Session) : (s.setSession v).y = s.y := rfl
@[simp] theorem State.setSession_flags (s : State) (v : Session) : (s.setSession v).flags = s.flags := rfl
@[simp] theorem State.setSession_mem (s : State) (v : Session) : (s.setSession v).mem = s.mem := rfl
@[simp] theorem State.setSession_session (s : State) (v : Session) : (s.setSession v).session = v := rfl
@[simp] theorem State.setSession_diag (s : State) (v : Session) : (s.setSession v).diag = s.diag := rfl
@[simp] theorem State.setSession_cycles (s : State) (v : Session) : (s.setSession v).cycles = s.cycles := rfl

/-! ### setDiag -/

@[simp] theorem State.setDiag_pc (s : State) (v : List DiagEvent) : (s.setDiag v).pc = s.pc := rfl
@[simp] theorem State.setDiag_sp (s : State) (v : List DiagEvent) : (s.setDiag v).sp = s.sp := rfl
@[simp] theorem State.setDiag_a (s : State) (v : List DiagEvent) : (s.setDiag v).a = s.a := rfl
@[simp] theorem State.setDiag_x (s : State) (v : List DiagEvent) : (s.setDiag v).x = s.x := rfl
@[simp] theorem State.setDiag_y (s : State) (v : List DiagEvent) : (s.setDiag v).y = s.y := rfl
@[simp] theorem State.setDiag_flags (s : State) (v : List DiagEvent) : (s.setDiag v).flags = s.flags := rfl
@[simp] theorem State.setDiag_mem (s : State) (v : List DiagEvent) : (s.setDiag v).mem = s.mem := rfl
@[simp] theorem State.setDiag_session (s : State) (v : List DiagEvent) : (s.setDiag v).session = s.session := rfl
@[simp] theorem State.setDiag_diag (s : State) (v : List DiagEvent) : (s.setDiag v).diag = v := rfl
@[simp] theorem State.setDiag_cycles (s : State) (v : List DiagEvent) : (s.setDiag v).cycles = s.cycles := rfl

/-! ### setCycles -/

@[simp] theorem State.setCycles_pc (s : State) (v : Int) : (s.setCycles v).pc = s.pc := rfl
@[simp] theorem State.setCycles_sp (s : State) (v : Int) : (s.setCycles v).sp = s.sp := rfl
@[simp] theorem State.setCycles_a (s : State) (v : Int) : (s.setCycles v).a = s.a := rfl
@[simp] theorem State.setCycles_x (s : State) (v : Int) : (s.setCycles v).x = s.x := rfl
@[simp] theorem State.setCycles_y (s : State) (v : Int) : (s.setCycles v).y = s.y := rfl
@[simp] theorem State.setCycles_flags (s : State) (v : Int) : (s.setCycles v).flags = s.flags := rfl
@[simp] theorem State.setCycles_mem (s : State) (v : Int) : (s.setCycles v).mem = s.mem := rfl
@[simp] theorem State.setCycles_session (s : State) (v : Int) : (s.setCycles v).session = s.session := rfl
@[simp] theorem State.setCycles_diag (s : State) (v : Int) : (s.setCycles v).diag = s.diag := rfl
@[simp] theorem State.setCycles_cycles (s : State) (v : Int) : (s.setCycles v).cycles = v := rfl

/-! ### tick -/

@[simp] theorem State.tick_pc (s : State) : (s.tick).pc = s.pc := rfl
@[simp] theorem State.tick_sp (s : State) : (s.tick).sp = s.sp := rfl
@[simp] theorem State.tick_a (s : State) : (s.tick).a = s.a := rfl
@[simp] theorem State.tick_x (s : State) : (s.tick).x = s.x := rfl
@[simp] theorem State.tick_y (s : State) : (s.tick).y = s.y := rfl
@[simp] theorem State.tick_flags (s : State) : (s.tick).flags = s.flags := rfl
@[simp] theorem State.tick_mem (s : State) : (s.tick).mem = s.mem := rfl
@[simp] theorem State.tick_session (s : State) : (s.tick).session = s.session := rfl
@[simp] theorem State.tick_diag (s : State) : (s.tick).diag = s.diag := rfl
@[simp] theorem State.tick_cycles (s : State) : (s.tick).cycles = s.cycles - 1 := rfl

/-! ### fetched -/

@[simp] theorem State.fetched_pc (s : State) (k : Nat) : (s.fetched k).pc = s.pc + BitVec.ofNat 16 k := rfl
@[simp] theorem State.fetched_sp (s : State) (k : Nat) : (s.fetched k).sp = s.sp := rfl
@[simp] theorem State.fetched_a (s : State) (k : Nat) : (s.fetched k).a = s.a := rfl
@[simp] theorem State.fetched_x (s : State) (k : Nat) : (s.fetched k).x = s.x := rfl
@[simp] theorem State.fetched_y (s : State) (k : Nat) : (s.fetched k).y = s.y := rfl
@[simp] theorem State.fetched_flags (s : State) (k : Nat) : (s.fetched k).flags = s.flags := rfl
@[simp] theorem State.fetched_mem (s : State) (k : Nat) : (s.fetched k).mem = s.mem := rfl
@[simp] theorem State.fetched_session (s : State) (k : Nat) : (s.fetched k).session = s.session := rfl
@[simp] theorem State.fetched_diag (s : State) (k : Nat) : (s.fetched k).diag = s.diag := rfl
@[simp] theorem State.fetched_cycles (s : State) (k : Nat) : (s.fetched k).cycles = s.cycles - k := rfl

/-! ### emitDiag -/

@[simp] theorem emitDiag_pc (addr : Word) (op : Byte) (s : State) : (emitDiag addr op s).pc = s.pc := rfl
@[simp] theorem emitDiag_sp (addr : Word) (op : Byte) (s : State) : (emitDiag addr op s).sp = s.sp := rfl
@[simp] theorem emitDiag_a (addr : Word) (op : Byte) (s : State) : (emitDiag addr op s).a = s.a := rfl
@[simp] theorem emitDiag_x (addr : Word) (op : Byte) (s : State) : (emitDiag addr op s).x = s.x := rfl
@[simp] theorem emitDiag_y (addr : Word) (op : Byte) (s : State) : (emitDiag addr op s).y = s.y := rfl
@[simp] theorem emitDiag_flags (addr : Word) (op : Byte) (s : State) : (emitDiag addr op s).flags = s.flags := rfl
@[simp] theorem emitDiag_mem (addr : Word) (op : Byte) (s : State) : (emitDiag addr op s).mem = s.mem := rfl
@[simp] theorem emitDiag_session (addr : Word) (op : Byte) (s : State) : (emitDiag addr op s).session = s.session := rfl
@[simp] theorem emitDiag_diag (addr : Word) (op : Byte) (s : State) : (emitDiag addr op s).diag = s.diag ++ [⟨addr, op⟩] := rfl
@[simp] theorem emitDiag_cycles (addr : Word) (op : Byte) (s : State) : (emitDiag addr op s).cycles = s.cycles := rfl

/-! ### raiseFault -/

@[simp] theorem raiseFault_pc (f : Fault) (s : State) : (raiseFault f s).pc = s.pc := rfl
@[simp] theorem raiseFault_sp (f : Fault) (s : State) : (raiseFault f s).sp = s.sp := rfl
@[simp] theorem raiseFault_a (f : Fault) (s : State) : (raiseFault f s).a = s.a := rfl
@[simp] theorem raiseFault_x (f : Fault) (s : State) : (raiseFault f s).x = s.x := rfl
@[simp] theorem raiseFault_y (f : Fault) (s : State) : (raiseFault f s).y = s.y := rfl
@[simp] theorem raiseFault_flags (f : Fault) (s : State) : (raiseFault f s).flags = s.flags := rfl
@[simp] theorem raiseFault_mem (f : Fault) (s : State) : (raiseFault f s).mem = s.mem := rfl
@[simp] theorem raiseFault_session (f : Fault) (s : State) : (raiseFault f s).session = .faulted f := rfl
@[simp] theorem raiseFault_diag (f : Fault) (s : State) : (raiseFault f s).diag = s.diag := rfl
@[simp] theorem raiseFault_cycles (f : Fault) (s : State) : (raiseFault f s).cycles = s.cycles := rfl

/-! ### loadValue -/

@[simp] theorem loadValue_pc (v : Byte) (s : State) : (loadValue v s).pc = s.pc := rfl
@[simp] theorem loadValue_sp (v : Byte) (s : State) : (loadValue v s).sp = s.sp := rfl
@[simp] theorem loadValue_a (v : Byte) (s : State) : (loadValue v s).a = v := rfl
@[simp] theorem loadValue_x (v : Byte) (s : State) : (loadValue v s).x = s.x := rfl
@[simp] theorem loadValue_y (v : Byte) (s : State) : (loadValue v s).y = s.y := rfl
@[simp] theorem loadValue_flags (v : Byte) (s : State) : (loadValue v s).flags = setZN v s.flags := rfl
@[simp] theorem loadValue_mem (v : Byte) (s : State) : (loadValue v s).mem = s.mem := rfl
@[simp] theorem loadValue_session (v : Byte) (s : State) : (loadValue v s).session = s.session := rfl
@[simp] theorem loadValue_diag (v : Byte) (s : State) : (loadValue v s).diag = s.diag := rfl
@[simp] theorem loadValue_cycles (v : Byte) (s : State) : (loadValue v s).cycles = s.cycles := rfl

/-! ### setZN -/

@[simp] theorem setZN_c (w : Byte) (g : Flags) : (setZN w g).c = g.c := rfl
@[simp] theorem setZN_i (w : Byte) (g : Flags) : (setZN w g).i = g.i := rfl
@[simp] theorem setZN_d (w : Byte) (g : Flags) : (setZN w g).d = g.d := rfl
@[simp] theorem setZN_b (w : Byte) (g : Flags) : (setZN w g).b = g.b := rfl
@[simp] theorem setZN_v (w : Byte) (g : Flags) : (setZN w g).v = g.v := rfl
@[simp] theorem setZN_z (w : Byte) (g : Flags) : (setZN w g).z = (w == 0) := rfl
@[simp] theorem setZN_n (w : Byte) (g : Flags) : (setZN w g).n = w.getLsbD 7 := rfl

end Sys2Proof.Machine
end

