-- ==== Sys2Proof/Laws/Ops.lean ====
section
/-! SUPPORT. What each shared operation of the machine answers, said once. -/

namespace Sys2Proof.Machine

/-- A 16-bit address lies inside the space (20_memory.md R40). -/
theorem addr_lt (addr : Word) : ¬ Config.memCapacity ≤ addr.toNat := by
  have := addr.isLt; unfold Config.memCapacity; omega

@[simp] theorem memRead_word (addr : Word) (m : Memory) : memRead addr.toNat m = .ok (m.get addr.toNat) := by
  simp [memRead, addr_lt]

@[simp] theorem memWrite_word (addr : Word) (v : Byte) (m : Memory) :
    memWrite addr.toNat v m = .ok (m.set addr.toNat v) := by
  simp [memWrite, addr_lt]

@[simp] theorem fetchByte_ok (s : State) : fetchByte s = .ok (s.peek s.pc, s.fetched 1) := by
  simp [fetchByte, State.peek, State.fetched, State.tick, State.setPc, State.setCycles]

@[simp] theorem State.fetched_fetched (s : State) (j k : Nat) : (s.fetched j).fetched k = s.fetched (j + k) := by
  simp only [State.fetched, State.setPc, State.setCycles, State.mk.injEq, true_and]
  exact ⟨by rw [BitVec.add_assoc, ← BitVec.ofNat_add], by push_cast; omega⟩

@[simp] theorem State.peek_fetched (s : State) (k : Nat) (addr : Word) : (s.fetched k).peek addr = s.peek addr := rfl

/-- The byte `k` addresses on, in plain arithmetic (30_encoding.md R60). -/
theorem State.peek_add (s : State) (addr : Word) (k : Nat) :
    s.peek (addr + BitVec.ofNat 16 k) = s.mem.get ((addr.toNat + k) % 65536) := by
  simp [State.peek, BitVec.toNat_add]

@[simp] theorem fetchWord_ok (s : State) :
    fetchWord s = .ok (wordOfBytes (s.peek s.pc) (s.peek (s.pc + 1)), s.fetched 2) := by
  simp [fetchWord]

@[simp] theorem readByte_ok (addr : Word) (s : State) : readByte addr s = .ok (s.peek addr, s.tick) := by
  simp [readByte, State.peek]

@[simp] theorem writeByte_ok (addr : Word) (v : Byte) (s : State) :
    writeByte addr v s = .ok (s.setMem (s.mem.set addr.toNat v)).tick := by
  simp [writeByte]

@[simp] theorem loadByte_next (ea : Word) (s : State) : loadByte ea s = .next (loadValue (s.peek ea) s.tick) := by
  simp [loadByte]

theorem loadIndexed_next (base : Word) (index : Byte) (s : State) : loadIndexed base index s =
    .next (loadValue (s.peek (eaIndexed base index)) (if pageCross base index then s.tick else s).tick) := by
  unfold loadIndexed
  split <;> simp [State.peek]

/-- The memory a subroutine call leaves, from the state with its operand fetched. -/
def callMemory (s : State) : Memory :=
  (s.mem.set (stackAddr s.sp).toNat (hiByte (returnAddress s))).set (stackAddr (s.sp - 1)).toNat
    (loByte (returnAddress s))

theorem callTo_next (target : Word) (s : State) : callTo target s =
    .next { s with mem := callMemory s, sp := s.sp - 2, cycles := s.cycles - 3, pc := target } := by
  simp only [callTo, writeByte_ok, State.tick, State.setMem, State.setCycles, State.setSp, State.setPc, callMemory]
  congr 2
  omega

theorem stackAddr_toNat (sp : Byte) : (stackAddr sp).toNat = 256 + sp.toNat := by
  revert sp; decide

/-- What one instruction leaves, by case: a load, a subroutine call, an unrecognised opcode. -/
theorem exec_cases {i : Instr} {s t : State} (h : exec i s = .next t) :
    (isLoad i = true ∧ ∃ v c, t = loadValue v ((s.fetched i.length).setCycles c)) ∨
    (∃ target, i = .jsr target ∧ t = { s with mem := callMemory (s.fetched 3), sp := s.sp - 2,
                                              cycles := s.cycles - 6, pc := target }) ∨
    (∃ op, i = .unrecognised op ∧ t = emitDiag s.pc op (s.fetched 1)) := by
  cases i <;> simp only [exec, execLdaImm, execLdaZp, execLdaZpX, execLdaAbs, execLdaAbsX, execLdaAbsY, execJsr,
    execUnrecognised, loadByte_next, loadIndexed_next, callTo_next, Host.Outcome.next.injEq] at h
  case jsr target =>
    refine .inr (.inl ⟨target, rfl, h.symm.trans ?_⟩)
    simp only [State.fetched, State.setPc, State.setCycles, State.mk.injEq, true_and]
    omega
  case unrecognised op => exact .inr (.inr ⟨op, rfl, h.symm⟩)
  case ldaImm => exact .inl ⟨rfl, _, (s.fetched 2).cycles, h.symm⟩
  case ldaZp => exact .inl ⟨rfl, _, (s.fetched 2).tick.cycles, h.symm⟩
  case ldaZpX => exact .inl ⟨rfl, _, (s.fetched 2).tick.tick.cycles, h.symm⟩
  case ldaAbs => exact .inl ⟨rfl, _, (s.fetched 3).tick.cycles, h.symm⟩
  all_goals split at h
  all_goals first
    | exact .inl ⟨rfl, _, (s.fetched 3).tick.tick.cycles, h.symm⟩
    | exact .inl ⟨rfl, _, (s.fetched 3).tick.cycles, h.symm⟩

/-- A step answers a next state only in a Ready session, and then it is the instruction at PC. -/
theorem step_next {s t : State} (h : step s = .next t) : s.session = .ready ∧ exec (fetchInstr s) s = .next t := by
  unfold step at h
  cases hs : s.session <;> simp [sessionCheck, hs] at h
  exact ⟨rfl, h⟩

theorem step_ready {s : State} (h : s.session = .ready) : step s = exec (fetchInstr s) s := by
  simp [step, sessionCheck, h]

/-- The instruction at PC is well-formed. -/
theorem fetchInstr_wf (s : State) : (fetchInstr s).WellFormed := assemble_wf ..

end Sys2Proof.Machine
end

