-- ==== Sys2Proof/Laws/Host.lean ====
section
/-! SUPPORT. The loop of Execute and the host operations, said once. -/

namespace Sys2Proof.Machine

/-- Packaged induction: what every step keeps holds where the loop returns. -/
theorem executeLoop_keeps {P : State → Prop} (hstep : ∀ {s t : State}, P s → step s = .next t → P t) :
    ∀ {fuel : Nat} {s t : State} {v : HostValue}, P s → executeLoop fuel s = .returned v t → P t := by
  intro fuel
  induction fuel with
  | zero => intro s t v hs h; cases h; exact hs
  | succ n ih =>
    intro s t v hs h
    simp only [executeLoop] at h
    split at h
    · split at h
      · exact ih (hstep hs ‹_›) h
      · cases h
      · cases h
    · cases h; exact hs

/-- The session check runs an operation in a Ready session, but ReadFault. -/
theorem perform_ready {p : Config.Params} {op : HostOp} {s : State} (hs : s.session = .ready) (hop : op ≠ .readFault) :
    perform p op s = performAdmitted p op s := by
  cases op <;> simp_all [perform, sessionCheck, HostOp.name]

/-- A WriteReg changes one of the five registers. -/
theorem State.writeReg_cases (s : State) (r : RegName) (k : Nat) :
    (r = .pc ∧ s.writeReg r k = s.setPc (BitVec.ofNat 16 k)) ∨ (r = .sp ∧ s.writeReg r k = s.setSp (BitVec.ofNat 8 k)) ∨
    (r = .a ∧ s.writeReg r k = s.setA (BitVec.ofNat 8 k)) ∨ (r = .x ∧ s.writeReg r k = s.setX (BitVec.ofNat 8 k)) ∨
    (r = .y ∧ s.writeReg r k = s.setY (BitVec.ofNat 8 k)) := by
  cases r <;> simp [State.writeReg]

/-- What Execute returns is what its loop returns, with the counter put away. -/
theorem execute_returned {budget : Int} {s t : State} {v : HostValue} (h : execute budget s = .returned v t) :
    ∃ w u, executeLoop budget.toNat (s.setCycles budget) = .returned w u ∧ t = u.setCycles 0 ∧
      v = .int (budget - u.cycles) := by
  unfold execute at h
  split at h
  · cases h; exact ⟨_, _, ‹_›, rfl, rfl⟩
  · cases h
  · cases h

/-- Running operations one after the other. -/
theorem runOps_cons (p : Config.Params) (op : HostOp) (ops : List HostOp) (s : State) : runOps p (op :: ops) s =
    match perform p op s with
    | .returned v t => { runOps p ops t with results := v :: (runOps p ops t).results }
    | .faulted _ t => { results := [], final := t, stuck := none }
    | .noStep r => { results := [], final := s, stuck := some r } := rfl

end Sys2Proof.Machine
end

