-- ==== Sys2Proof/Laws/Operands.lean ====
section
/-! SUPPORT. The effective addresses in plain arithmetic. -/

namespace Sys2Proof.Machine

theorem hiByte_toNat (w : Word) : (hiByte w).toNat = w.toNat / 256 := by
  simp [hiByte, Nat.shiftRight_eq_div_pow]; omega

theorem loByte_toNat (w : Word) : (loByte w).toNat = w.toNat % 256 := by
  simp [loByte]

theorem eaZp_toNat (zp : Byte) : (eaZp zp).toNat = zp.toNat := by
  simp [eaZp, zext16]; omega

/-- The zero-page sum wraps modulo 256 (41_load.md R103). -/
theorem eaZpX_toNat (zp x : Byte) : (eaZpX zp x).toNat = (zp.toNat + x.toNat) % 256 := by
  simp [eaZpX, zext16]; omega

/-- The absolute sum wraps modulo 2^16 (41_load.md R105, R106). -/
theorem eaIndexed_toNat (base : Word) (index : Byte) :
    (eaIndexed base index).toNat = (base.toNat + index.toNat) % 65536 := by
  simp [eaIndexed, zext16, BitVec.toNat_add]

/-- A page cross is a change of page (41_load.md R105, R106). -/
theorem pageCross_iff (base : Word) (index : Byte) :
    pageCross base index = true ↔ (base.toNat + index.toNat) % 65536 / 256 ≠ base.toNat / 256 := by
  simp [pageCross, ← BitVec.toNat_inj, hiByte_toNat, eaIndexed_toNat]

end Sys2Proof.Machine
end

