-- ==== Sys2Proof/Laws/PerInstr.lean ====
section
/-! SUPPORT. What holds of every instruction as syntax: its encoding has the length its format gives it, from one byte to
three (spec/30_encoding.md R60, R61, R65). -/

namespace Sys2Proof.Laws.EncodeLength

/-- The instruction's bytes are as many as its format says, at least one and at most three. -/
def Statement (i : Instr) : Prop := (encode i).length = i.length ∧ 1 ≤ i.length ∧ i.length ≤ 3

/-- Every format has one to three bytes (R61). -/
theorem of_format {i : Instr} (h : (encode i).length = i.length) : Statement i :=
  ⟨h, by unfold Instr.length; cases i.opcode <;> decide, by unfold Instr.length; cases i.opcode <;> decide⟩

theorem ldaImm (imm : Byte) : Statement (.ldaImm imm) := of_format rfl
theorem ldaZp (zp : Byte) : Statement (.ldaZp zp) := of_format rfl
theorem ldaZpX (zp : Byte) : Statement (.ldaZpX zp) := of_format rfl
theorem ldaAbs (abs : Word) : Statement (.ldaAbs abs) := of_format rfl
theorem ldaAbsX (base : Word) : Statement (.ldaAbsX base) := of_format rfl
theorem ldaAbsY (base : Word) : Statement (.ldaAbsY base) := of_format rfl
theorem jsr (target : Word) : Statement (.jsr target) := of_format rfl
theorem unrecognised (op : Byte) : Statement (.unrecognised op) := of_format rfl

end Sys2Proof.Laws.EncodeLength
end

