-- ==== Sys2Proof/Tests/Slice0.lean ====
section
/-! SUPPORT. Tests: expected results from spec/95_test_vectors.md and from hand calculation with the rules, never from the
model; the smoke test of WellFormed; the decoding of words written out from spec/30_encoding.md; and a witness for the
hypotheses of every statement. -/

namespace Sys2Proof.Tests

open Sys2Proof.Machine

/-- S0 of 95_test_vectors.md with the bytes `code` from `pc` on, over the memory `data`. -/
def start (pc : Word) (code : List Byte) (data : Memory) : State :=
  { State.reset with pc := pc, mem := placeBytes code pc data }

/-- The state an instruction leaves. -/
def stateOf : Outcome → Option State
  | .next s => some s
  | .fault _ => none
  | .refused _ => none

/-- A, Z, N, PC, SP and the cycles used by one step (the counter starts at 0). -/
def effect (s : State) : Option (Byte × Bool × Bool × Word × Byte × Int) :=
  (stateOf (step s)).map fun t => (t.a, t.flags.z, t.flags.n, t.pc, t.sp, s.cycles - t.cycles)

/-! ### WellFormed -/

theorem test_wellFormed_refuses_recognised : (Instr.unrecognised 0xA9).wellFormed = false := by decide
theorem test_wellFormed_takes_other : (Instr.unrecognised 0xEA).wellFormed = true := by decide

/-! ### Decoding, each word from the encoding tables (R61, R63, R67) -/

theorem test_decode_ldaImm : decode [0b10101001, 0x84] = .ok (.ldaImm 0x84, []) := by decide
theorem test_decode_ldaZp : decode [0b10100101, 0x42] = .ok (.ldaZp 0x42, []) := by decide
theorem test_decode_ldaZpX : decode [0b10110101, 0x80] = .ok (.ldaZpX 0x80, []) := by decide
theorem test_decode_ldaAbs : decode [0b10101101, 0x80, 0x44] = .ok (.ldaAbs 0x4480, []) := by decide
theorem test_decode_ldaAbsX : decode [0b10111101, 0xFF, 0x30] = .ok (.ldaAbsX 0x30FF, []) := by decide
theorem test_decode_ldaAbsY : decode [0b10111001, 0x00, 0x30] = .ok (.ldaAbsY 0x3000, []) := by decide
theorem test_decode_jsr : decode [0b00100000, 0x00, 0x80] = .ok (.jsr 0x8000, []) := by decide
theorem test_decode_unrecognised : decode [0b10001101, 0x34, 0x12] = .ok (.unrecognised 0x8D, [0x34, 0x12]) := by decide
theorem test_decode_refuses_nothing : decode [] = .error .noOpcode := by decide
theorem test_decode_refuses_short : decode [0xAD, 0x80] = .error (.operandMissing 0xAD) := by decide
theorem test_decodeTableWord_short : decodeTableWord 8 0xBD = some (.ldaAbsX 0x0000) := by decide
theorem test_decodeTableWord_whole : decodeTableWord 24 0x123420 = some (.jsr 0x1234) := by decide

/-! ### One step (95_test_vectors.md) -/

/-- E4: A, Z, N, and C, I, D, B, V kept. -/
theorem test_ldaImm_E4 : (stateOf (step { start 0xFFFC [0xA9, 0x84] [] with
      flags := { c := true, z := true, i := true, d := true, b := true, v := true, n := false } })).map
    (fun t => (t.a, t.flags)) =
    some (0x84, { c := true, z := false, i := true, d := true, b := true, v := true, n := true }) := by decide
/-- Part 2: the opcode at 0xFFFF, the operand at 0x0000. -/
theorem test_ldaImm_wraps : effect (start 0xFFFF [0xA9, 0x55] []) = some (0x55, false, false, 0x0001, 0xFF, 2) := by decide
/-- E6. -/
theorem test_ldaZp_E6 : effect (start 0xFFFC [0xA5, 0x42] [(0x42, 0x37)]) =
    some (0x37, false, false, 0xFFFE, 0xFF, 3) := by decide
/-- E7b: the zero-page sum wraps. -/
theorem test_ldaZpX_E7b : effect { start 0xFFFC [0xB5, 0x80] [(0x7F, 0x37), (0x17F, 0x99)] with x := 0xFF } =
    some (0x37, false, false, 0xFFFE, 0xFF, 4) := by decide
/-- R104: with the opcode at 0xFFFD the high operand byte lies at 0xFFFF and the load reads it; SP is untouched (R107). -/
theorem test_ldaAbs_own_byte : effect (start 0xFFFD [0xAD, 0xFF, 0xFF] []) =
    some (0xFF, false, true, 0x0000, 0xFF, 4) := by decide
/-- With the opcode at 0xFFFC the operand ends at 0xFFFE (R61), so 0xFFFF holds 0x00: the row of 95_test_vectors.md that says
0xFF contradicts R61 (notes/assumptions/9.md). -/
theorem test_ldaAbs_row_of_part_two : effect (start 0xFFFC [0xAD, 0xFF, 0xFF] []) =
    some (0x00, true, false, 0xFFFF, 0xFF, 4) := by decide
/-- E8a: 0x3000 + 0xFF does not cross a page (90_conflicts.md C3). -/
theorem test_ldaAbsX_E8a : effect { start 0xFFFC [0xBD, 0x00, 0x30] [(0x30FF, 0x37)] with x := 0xFF } =
    some (0x37, false, false, 0xFFFF, 0xFF, 4) := by decide
/-- R105's example: base 0x4402, index 0xFF crosses. -/
theorem test_ldaAbsX_cross : effect { start 0xFFFC [0xBD, 0x02, 0x44] [(0x4501, 0x37)] with x := 0xFF } =
    some (0x37, false, false, 0xFFFF, 0xFF, 5) := by decide
/-- E8b with Y; X is not read. -/
theorem test_ldaAbsY_E8b : effect { start 0xFFFC [0xB9, 0xFF, 0x30] [(0x3100, 0x37)] with x := 0x70, y := 0x01 } =
    some (0x37, false, false, 0xFFFF, 0xFF, 5) := by decide
/-- Part 2: base 0xFFFF, index 0x01 reads 0x0000 and counts as a cross (D5). -/
theorem test_ldaAbsY_wraps : effect { start 0x1000 [0xB9, 0xFF, 0xFF] [(0x0000, 0x80)] with y := 0x01 } =
    some (0x80, false, true, 0x1003, 0xFF, 5) := by decide
/-- Part 2: SP = 0x00 wraps inside the stack page. -/
theorem test_jsr_stack_wraps : (stateOf (step { start 0xFFFC [0x20, 0x34, 0x12] [] with sp := 0x00 })).map
    (fun t => (t.pc, t.sp, t.cycles, t.mem.get 0x0100, t.mem.get 0x01FF)) =
    some (0x1234, 0xFE, -6, 0xFF, 0xFE) := by decide
/-- Part 2: the opcode at 0xFFFE, its last byte at 0x0000, so 0x0000 is pushed. -/
theorem test_jsr_straddles : (stateOf (step (start 0xFFFE [0x20, 0x00, 0x12] []))).map
    (fun t => (t.pc, t.sp, t.mem.get 0x01FF, t.mem.get 0x01FE)) = some (0x1200, 0xFD, 0x00, 0x00) := by decide
/-- Part 2: 0xFF at 0xFFFF. -/
theorem test_unrecognised_wraps : (stateOf (step (start 0xFFFF [0xFF] []))).map (fun t => (t.pc, t.cycles, t.diag)) =
    some (0x0000, -1, [⟨0xFFFF, 0xFF⟩]) := by decide
/-- Part 2: 0x8D stores nothing and leaves its operands to be fetched. -/
theorem test_unrecognised_sta : (stateOf (step (start 0xFFFC [0x8D, 0x34, 0x12] []))).map
    (fun t => (t.pc, t.mem.get 0x1234, t.a)) = some (0xFFFD, 0x00, 0x00) := by decide

/-! ### Host operations (95_test_vectors.md) -/

/-- What a run answers: the results, the session, and whether an operation had no step. -/
def answers (ops : List HostOp) (s : State) : List HostValue × Session × Option Refusal :=
  let r := runOps Config.defaults ops s
  (r.results, r.final.session, r.stuck)

/-- A constructed machine, with contents no statement rests on. -/
def constructed : State := { State.reset with session := .unreset, a := 0x5A }

/-- E1: budgets 0 and -1000. -/
theorem test_execute_E1 : answers [.execute 0, .execute (-1000), .readReg .pc] (start 0xFFFC [0xA9, 0x84] []) =
    ([.int 0, .int 0, .nat 0xFFFC], .ready, none) := by decide
/-- E2: budget 3 runs three unrecognised bytes. -/
theorem test_execute_E2 : answers [.execute 3, .readReg .pc, .readDiag] State.reset =
    ([.int 3, .nat 0xFFFF, .log [⟨0xFFFC, 0⟩, ⟨0xFFFD, 0⟩, ⟨0xFFFE, 0⟩]], .ready, none) := by decide
/-- E3: a budget of 1 overdrawn by a 2-cycle load. -/
theorem test_execute_E3 : answers [.execute 1, .readReg .a] (start 0xFFFC [0xA9, 0x84] []) =
    ([.int 2, .nat 0x84], .ready, none) := by decide
/-- P4: a self-call walking the stack across the page wrap. -/
theorem test_execute_P4 : answers [.writeReg .sp 1, .execute 7, .readReg .sp, .read 0x0101, .read 0x0100, .read 0x01FF,
      .read 0x01FE] (start 0xFFFC [0x20, 0xFC, 0xFF] []) =
    ([.unit, .int 12, .nat 0xFD, .nat 0xFF, .nat 0xFE, .nat 0xFF, .nat 0xFE], .ready, none) := by decide
/-- E9. -/
theorem test_writeWord_E9 : answers [.reset, .writeWord 10 0x1234 0x0200, .read 0x0200, .read 0x0201] constructed =
    ([.unit, .int 8, .nat 0x34, .nat 0x12], .ready, none) := by decide
/-- Part 2: WriteWord at 0xFFFF faults on 0x10000 and ends the run; nothing is written. -/
theorem test_writeWord_top : answers [.writeWord 4 0xBEEF 0xFFFF, .read 0xFFFF] State.reset =
    ([], .faulted (.outOfBounds 0x10000), none) ∧
    (runOps Config.defaults [.writeWord 4 0xBEEF 0xFFFF] State.reset).final.mem = [] := by decide
/-- Part 2: Execute before any Reset; afterwards Reset has no step and the fault is readable. -/
theorem test_use_before_reset :
    answers [.execute 5] constructed = ([], .faulted (.useBeforeReset .execute), none) ∧
    answers [.reset] { constructed with session := .faulted (.useBeforeReset .execute) } =
      ([], .faulted (.useBeforeReset .execute), some (.sessionFaulted (.useBeforeReset .execute))) ∧
    answers [.readFault] { constructed with session := .faulted (.useBeforeReset .execute) } =
      ([.faultRecord 2 (.useBeforeReset .execute)], .faulted (.useBeforeReset .execute), none) := by decide
/-- Part 2: Read(0x10000), and WriteReg(A, 0x100). -/
theorem test_host_bounds : answers [.read 0x10000] State.reset = ([], .faulted (.outOfBounds 0x10000), none) ∧
    answers [.writeReg .a 0x100] State.reset = ([], .ready, some (.valueTooWide .writeReg 0x100)) := by decide

/-- R174, R34: before Reset the log reads empty and ReadFault has no step; in a Faulted session the log is still readable. -/
theorem test_readDiag_any_session :
    answers [.readDiag, .readFault] constructed = ([.log []], .unreset, some .noFaultRecorded) ∧
    answers [.readDiag] { State.reset with session := .faulted (.outOfBounds 65536), diag := [⟨0xFFFC, 0xEA⟩] } =
      ([.log [⟨0xFFFC, 0xEA⟩]], .faulted (.outOfBounds 65536), none) := by decide

/-! ### Witnesses: states and operands that meet each statement's hypotheses -/

/-- A faulted session. -/
def faultedState : State := { State.reset with session := .faulted (.outOfBounds 0x10000) }

theorem witness_DecodeEncodeIsIdentity : (Instr.jsr 0x8000).WellFormed ∧ (Instr.unrecognised 0x00).WellFormed := by decide
theorem witness_EncodeDecodeIsIdentity : decode [0x20, 0x00, 0x80, 0x55] = .ok (.jsr 0x8000, [0x55]) := by decide
theorem witness_UnlistedBytesAreUnrecognised :
    (0x00 : Byte) ∉ ([0xA9, 0xA5, 0xB5, 0xAD, 0xBD, 0xB9, 0x20] : List Byte) ∧
    (0xFF : Byte) ∉ ([0xA9, 0xA5, 0xB5, 0xAD, 0xBD, 0xB9, 0x20] : List Byte) := by decide
theorem witness_StepRunsDecodedInstruction : (start 0xFFFE [0x20, 0x00, 0x12] []).session = .ready ∧
    decode [(start 0xFFFE [0x20, 0x00, 0x12] []).mem.get 0xFFFE, (start 0xFFFE [0x20, 0x00, 0x12] []).mem.get 0xFFFF,
      (start 0xFFFE [0x20, 0x00, 0x12] []).mem.get 0x0000] = .ok (.jsr 0x1200, []) := by decide
theorem witness_ExecuteNeedsReadySession : constructed.session = .unreset ∧
    faultedState.session = .faulted (.outOfBounds 0x10000) := by decide
/-- For every statement whose only hypothesis is a Ready session. -/
theorem witness_ready : State.reset.session = .ready := by decide
theorem witness_LdaImmediateLoadsOperand : (start 0xFFFF [0xA9, 0x55] []).session = .ready ∧
    (start 0xFFFF [0xA9, 0x55] []).mem.get 0xFFFF = 0xA9 := by decide
theorem witness_LdaZeroPageLoadsByte : (start 0xFFFC [0xA5, 0xFF] []).session = .ready ∧
    (start 0xFFFC [0xA5, 0xFF] []).mem.get 0xFFFC = 0xA5 := by decide
theorem witness_LdaZeroPageXLoadsByte : (start 0xFFFC [0xB5, 0xFF] []).mem.get 0xFFFC = 0xB5 ∧
    Memory.get [(0x0000, 0x22)] (((0xFF : Byte).toNat + (0x01 : Byte).toNat) % 256) = 0x22 := by decide
theorem witness_LdaAbsoluteLoadsByte : (start 0xFFFC [0xAD, 0xFF, 0xFF] []).mem.get 0xFFFC = 0xAD ∧
    (start 0xFFFC [0xAD, 0xFF, 0xFF] []).mem.get 0xFFFF = 0x00 := by decide
theorem witness_LdaAbsoluteXLoadsByte : (start 0xFFFC [0xBD, 0xFF, 0xFF] []).mem.get 0xFFFC = 0xBD ∧
    ((0xFFFF : Word).toNat + (0x01 : Byte).toNat) % 65536 = 0 ∧
    ((0x3000 : Word).toNat + (0xFF : Byte).toNat) % 65536 = 0x30FF := by decide
theorem witness_LdaAbsoluteYLoadsByte : (start 0xFFFC [0xB9, 0xFF, 0x12] []).mem.get 0xFFFC = 0xB9 ∧
    ((0x12FF : Word).toNat + (0x01 : Byte).toNat) % 65536 = 0x1300 := by decide
theorem witness_JsrPushesAndJumps : (start 0xFFFC [0x20, 0x34, 0x12] []).mem.wf ∧
    (start 0xFFFC [0x20, 0x34, 0x12] []).mem.get 0xFFFC = 0x20 ∧
    (stateOf (exec (.jsr 0x1234) { State.reset with sp := 0x00 })).isSome := by decide
theorem witness_UnrecognisedIsReportedNoOp : State.reset.session = .ready ∧
    State.reset.mem.get State.reset.pc.toNat ∉ ([0xA9, 0xA5, 0xB5, 0xAD, 0xBD, 0xB9, 0x20] : List Byte) := by decide
/-- For every statement about a load's next state. -/
theorem witness_load_next : isLoad (.ldaAbsX 0x30FF) = true ∧
    (stateOf (exec (.ldaAbsX 0x30FF) { State.reset with x := 0x01 })).isSome ∧
    isLoad (.ldaImm 0x00) = true ∧ (stateOf (exec (.ldaImm 0x00) State.reset)).isSome := by decide
/-- For every statement about any instruction's next state: a call and an unrecognised opcode too. -/
theorem witness_other_next : isLoad (.jsr 0xFFFF) = false ∧ (stateOf (exec (.jsr 0xFFFF) State.reset)).isSome ∧
    isLoad (.unrecognised 0xEA) = false ∧ (stateOf (exec (.unrecognised 0xEA) State.reset)).isSome := by decide
theorem witness_StepWritesOnlyTheStackPage : State.reset.mem.wf ∧ (stateOf (step State.reset)).isSome ∧
    0x00FF < 0x0100 ∧ 0x0200 ≤ 0x0200 := by decide
theorem witness_NoInstructionFaults :
    perform Config.defaults (.read 65536) State.reset =
      .faulted (.outOfBounds 65536) { State.reset with session := .faulted (.outOfBounds 65536) } ∧
    (perform Config.defaults (.write 65536 0) State.reset).label = .fault (.outOfBounds 65536) ∧
    (perform Config.defaults (.writeWord 0 0 0xFFFF) State.reset).label = .fault (.outOfBounds 65536) ∧
    (perform Config.defaults (.writeWord 0 0 65536) State.reset).label = .fault (.outOfBounds 65536) := by decide
theorem witness_IndexRegisters : (Instr.ldaAbsY 0).opcode ≠ .ldaZpX ∧ (Instr.ldaAbsY 0).opcode ≠ .ldaAbsX ∧
    (Instr.ldaAbsX 0).opcode ≠ .ldaAbsY ∧ (stateOf (exec (.ldaZpX 0xFF) State.reset)).isSome ∧
    (stateOf (exec (.ldaAbsY 0xFFFF) State.reset)).isSome ∧ State.reset.session = .ready ∧ 255 < 256 ∧
    (perform Config.defaults (.writeReg .x 255) State.reset).label = .result .unit ∧
    (perform Config.defaults .reset constructed).label = .result .unit := by decide
theorem witness_StackPointer : (Instr.ldaImm 0).opcode ≠ .jsr ∧ (Instr.jsr 0).opcode = .jsr := by decide
theorem witness_InstructionsReadNo : State.reset.pc = faultedState.pc ∧ State.reset.sp = faultedState.sp ∧
    State.reset.x = faultedState.x ∧ State.reset.y = faultedState.y ∧ State.reset.mem = faultedState.mem ∧
    State.reset.cycles = faultedState.cycles ∧ State.reset ≠ faultedState := by decide
theorem witness_DiagnosticLog : (stateOf (step State.reset)).isSome ∧
    (perform Config.defaults (.execute 3) State.reset).label = .result (.int 3) ∧
    (perform Config.defaults .initialise State.reset).label = .result .unit := by decide
theorem witness_invariant : State.reset.Inv ∧ (start 0xFFFC [0x20, 0x34, 0x12] []).Inv ∧
    (stateOf (step (start 0xFFFC [0x20, 0x34, 0x12] []))).isSome ∧
    (perform Config.defaults (.execute 7) (start 0xFFFC [0x20, 0x34, 0x12] [])).label = .result (.int 7) ∧
    (perform Config.defaults (.read 65536) State.reset).label = .fault (.outOfBounds 65536) := by decide
theorem witness_ReadyRunsMeetInvariant : constructed.Constructed ∧
    (runOps Config.defaults [.reset, .write 0xFFFC 0xEA, .execute 1] constructed).final.session = .ready := by decide
theorem witness_budgets : (0 : Int) ≤ 0 ∧ (-1000 : Int) ≤ 0 ∧ (1 : Int) ≤ 1 ∧ State.reset.cycles = 0 := by decide
theorem witness_Passes : Passes [] State.reset State.reset := .stop (by decide)
theorem witness_Passes_one : Passes [1] { State.reset with cycles := 1 }
    { State.reset with pc := 0xFFFD, diag := [⟨0xFFFC, 0x00⟩], cycles := 0 } :=
  Passes.pass (s := { State.reset with cycles := 1 })
    (t := { State.reset with pc := 0xFFFD, diag := [⟨0xFFFC, 0x00⟩], cycles := 0 }) (by decide) rfl (.stop (by decide))
theorem witness_ByteOperations : Memory.wf [(65535, 0x01)] ∧ 65535 < 65536 ∧ 65536 ≤ 65536 := by decide
theorem witness_memory_write : Memory.wf [(0x0100, 0x37)] ∧ memWrite 65535 0x01 [(0x0100, 0x37)] =
    .ok [(0x0100, 0x37), (65535, 0x01)] ∧ memRead 0x0100 [(0x0100, 0x37)] = .ok 0x37 ∧
    memWrite 0x0100 0x00 [(0x0100, 0x37)] = .ok [] := by decide
theorem witness_EqualBytes : Memory.wf [] ∧ ∀ addr, Memory.get [] addr = Memory.get [] addr := ⟨by decide, fun _ => rfl⟩
theorem witness_InitialiseZeroes : (perform Config.defaults .reset (start 0 [0xA9] [])).label = .result .unit := by decide
theorem witness_WriteWord : State.reset.session = .ready ∧ State.reset.mem.wf ∧ 65534 < 65535 ∧ 65536 ≤ 65536 ∧
    writeWord 4 0xBEEF 0xFFFE [] = .ok ([(0xFFFE, 0xEF), (0xFFFF, 0xBE)], 2) := by decide
theorem witness_Reset : constructed.session = .unreset ∧ State.reset.session = .ready ∧
    faultedState.session = .faulted (.outOfBounds 0x10000) := by decide
theorem witness_HostWrites : 65535 < 2 ^ RegName.width .pc ∧ 255 < 2 ^ RegName.width .a ∧ State.reset.mem.wf ∧
    65535 < 65536 ∧ 255 < 256 := by decide
theorem witness_HostRefuses : 65536 ≤ 65536 ∧ 256 ≤ 256 ∧ RegName.sp ≠ .pc ∧ 1 < 2 ∧ 65535 < 65536 ∧
    (perform Config.defaults (.write 65535 256) State.reset).label = .refusal (.valueTooWide .write 256) := by decide
theorem witness_HostReads : State.reset.session = .ready ∧ constructed.session = .unreset ∧ 65535 < 65536 := by decide
theorem witness_HostAccessPastMemory : State.reset.session = .ready ∧ 65536 ≤ 65536 ∧ 255 < 256 ∧
    (perform Config.defaults (.write 65536 255) State.reset).label = .fault (.outOfBounds 65536) := by decide
theorem witness_UseBeforeReset : (HostOp.read 0).name ≠ .reset ∧ (HostOp.read 0).name ≠ .readDiag ∧
    (HostOp.read 0).name ≠ .readFault ∧ constructed.session = .unreset := by decide
theorem witness_ContentsBeforeReset : constructed.Constructed ∧ { constructed with a := 0 }.Constructed ∧
    constructed ≠ { constructed with a := 0 } := by decide
theorem witness_FaultedSession : HostOp.reset ≠ .readDiag ∧ HostOp.reset ≠ .readFault ∧
    faultedState.session = .faulted (.outOfBounds 0x10000) := by decide
theorem witness_SessionLifecycle : (perform Config.defaults .reset constructed).label = .result .unit ∧
    HostOp.initialise ≠ .reset ∧ (perform Config.defaults .initialise State.reset).label = .result .unit ∧
    (perform Config.defaults (.read 0) constructed).label = .fault (.useBeforeReset .read) := by decide

/-! ### The table words step runs right after reset -/

theorem test_withFetchWord_runs : effect (State.reset.withFetchWord 16 0x84A9) =
    some (0x84, false, true, 0xFFFE, 0xFF, 2) := by decide
theorem test_withFetchWord_short : (stateOf (step (State.reset.withFetchWord 8 0x20))).map (fun t => (t.pc, t.sp)) =
    some (0x0000, 0xFD) := by decide

end Sys2Proof.Tests
end

section
/-! The state an instruction leaves, as one total function, and what it keeps. -/

namespace Sys2Proof.Machine

/-- The byte a load puts in A (41_load.md R101 to R106); A itself for the two instructions that load nothing. -/
def loadedByte (i : Instr) (s : State) : Byte :=
  match i with
  | .ldaImm imm => imm
  | .ldaZp zp => s.peek (eaZp zp)
  | .ldaZpX zp => s.peek (eaZpX zp s.x)
  | .ldaAbs abs => s.peek abs
  | .ldaAbsX base => s.peek (eaIndexed base s.x)
  | .ldaAbsY base => s.peek (eaIndexed base s.y)
  | .jsr _ | .unrecognised _ => s.a

/-- The state an instruction leaves; `exec_eq` ties it to `exec`. -/
def execState (i : Instr) (s : State) : State :=
  match i with
  | .jsr target => { s with mem := callMemory (s.fetched 3), sp := s.sp - 2, cycles := s.cycles - 6, pc := target }
  | .unrecognised op => emitDiag s.pc op (s.fetched 1)
  | _ => loadValue (loadedByte i s) ((s.fetched i.length).setCycles (s.cycles - cost i s))

/-- A load from memory, with its read's cycle folded into the counter. -/
theorem loadByte_setCycles {t : State} {c : Int} (ea : Word) (h : t.cycles - 1 = c) :
    loadByte ea t = .next (loadValue (t.peek ea) (t.setCycles c)) := by
  subst h; exact loadByte_next ea t

theorem loadIndexed_fetched (base : Word) (index : Byte) (s : State) : loadIndexed base index (s.fetched 3) =
    .next (loadValue (s.peek (eaIndexed base index))
      ((s.fetched 3).setCycles (s.cycles - indexedCost base index))) := by
  unfold loadIndexed indexedCost
  split
  · exact loadByte_setCycles _ (by simp; omega)
  · exact loadByte_setCycles _ (by simp; omega)

/-- Every instruction answers a next state, whatever the session (60_exceptions.md R141). -/
theorem exec_eq (i : Instr) (s : State) : exec i s = .next (execState i s) := by
  cases i with
  | ldaImm imm => rfl
  | ldaZp zp => exact loadByte_setCycles _ (by simp [cost]; omega)
  | ldaZpX zp => exact loadByte_setCycles _ (by simp [cost]; omega)
  | ldaAbs abs => exact loadByte_setCycles _ (by simp [cost]; omega)
  | ldaAbsX base => exact loadIndexed_fetched base s.x s
  | ldaAbsY base => exact loadIndexed_fetched base s.y s
  | jsr target =>
    refine (callTo_next target (s.fetched 3)).trans ?_
    simp only [execState, State.fetched, State.setPc, State.setCycles, Host.Outcome.next.injEq, State.mk.injEq, true_and]
    omega
  | unrecognised op => rfl

theorem eq_execState {i : Instr} {s t : State} (h : exec i s = .next t) : t = execState i s := by
  rw [exec_eq] at h; cases h; rfl

theorem step_ready_eq {s : State} (h : s.session = .ready) : step s = .next (execState (fetchInstr s) s) := by
  rw [step_ready h, exec_eq]

theorem eq_execState_of_step {s t : State} (h : step s = .next t) : t = execState (fetchInstr s) s :=
  eq_execState (step_next h).2

/-- An instruction whose state passes through the change `g` answers the same, `g` applied to it. -/
theorem exec_comm {i : Instr} {s : State} {g : State → State} (h : execState i (g s) = g (execState i s)) :
    exec i (g s) = mapNext g (exec i s) := by
  rw [exec_eq, exec_eq, h]; rfl

@[simp] theorem execState_x (i : Instr) (s : State) : (execState i s).x = s.x := by cases i <;> rfl

@[simp] theorem execState_y (i : Instr) (s : State) : (execState i s).y = s.y := by cases i <;> rfl

@[simp] theorem execState_session (i : Instr) (s : State) : (execState i s).session = s.session := by
  cases i <;> rfl

theorem execState_sp (i : Instr) (s : State) :
    (execState i s).sp = if i.opcode = .jsr then s.sp - 2 else s.sp := by cases i <;> rfl

theorem execState_flags (i : Instr) (s : State) :
    (execState i s).flags = if isLoad i then setZN (execState i s).a s.flags else s.flags := by
  cases i <;> rfl

theorem execState_diag_of_ne {i : Instr} (h : i.opcode ≠ .unrecognised) (s : State) :
    (execState i s).diag = s.diag := by
  cases i with
  | unrecognised op => exact absurd rfl h
  | _ => rfl

/-- Only an unrecognised byte assembles to a no-op, which keeps that byte for its report (43_unrecognised.md R130). -/
theorem assemble_of_unrecognised {op : Byte} (h : decodeOpcode op = .unrecognised) (b1 b2 : Byte) :
    assemble op b1 b2 = .unrecognised op := by
  simp [assemble, h]

theorem length_encode (i : Instr) : (encode i).length = i.length := by cases i <;> rfl

end Sys2Proof.Machine
end

section
/-! What a host operation can do, said once: the session check, the loop of Execute, and the inversion of each outcome. -/

namespace Sys2Proof.Machine

/-! ### The session check (60_exceptions.md R144) -/

theorem perform_reset (p : Config.Params) {s : State} (hs : s.session = .unreset ∨ s.session = .ready) :
    perform p .reset s = .returned .unit (State.resetWith p s.diag) := by
  rcases hs with hs | hs <;> simp [perform, HostOp.name, sessionCheck, hs, performAdmitted, resetOp]

theorem perform_readDiag (p : Config.Params) (s : State) : perform p .readDiag s = .returned (.log s.diag) s := by
  cases hs : s.session <;> simp [perform, HostOp.name, sessionCheck, hs, performAdmitted, readDiagOp]

theorem perform_readFault_of_faulted (p : Config.Params) {s : State} {f : Fault} (hs : s.session = .faulted f) :
    perform p .readFault s = .returned (.faultRecord f.code f) s := by
  simp [perform, HostOp.name, sessionCheck, hs, performAdmitted, readFaultOp]

theorem perform_readFault_of_unreset (p : Config.Params) {s : State} (hs : s.session = .unreset) :
    perform p .readFault s = .noStep .noFaultRecorded := by
  simp [perform, HostOp.name, sessionCheck, hs]

theorem perform_of_faulted (p : Config.Params) {op : HostOp} {s : State} {f : Fault} (hs : s.session = .faulted f)
    (hd : op.name ≠ .readDiag) (hf : op.name ≠ .readFault) : perform p op s = .noStep (.sessionFaulted f) := by
  simp [perform, sessionCheck, hs, hd, hf]

theorem perform_of_unreset (p : Config.Params) {op : HostOp} {s : State} (hs : s.session = .unreset)
    (hr : op.name ≠ .reset) (hd : op.name ≠ .readDiag) (hf : op.name ≠ .readFault) :
    perform p op s = .faulted (.useBeforeReset op.name) (raiseFault (.useBeforeReset op.name) s) := by
  simp [perform, sessionCheck, hs, hr, hd, hf]

theorem HostOp.name_eq_readDiag {op : HostOp} : op.name = .readDiag ↔ op = .readDiag := by
  cases op <;> simp [HostOp.name]

theorem HostOp.name_eq_readFault {op : HostOp} : op.name = .readFault ↔ op = .readFault := by
  cases op <;> simp [HostOp.name]

theorem HostOp.name_eq_reset {op : HostOp} : op.name = .reset ↔ op = .reset := by
  cases op <;> simp [HostOp.name]

/-- An operation that returns is one the session check let run. -/
theorem admitted_of_returned {p : Config.Params} {op : HostOp} {s t : State} {v : HostValue}
    (h : perform p op s = .returned v t) :
    sessionCheck op.name s.session = .run ∧ performAdmitted p op s = .returned v t := by
  unfold perform at h
  split at h
  · exact ⟨‹_›, h⟩
  · cases h
  · cases h

/-- Reset is let run in Unreset and Ready (70_reset_and_hazards.md R174). -/
theorem reset_admitted {w : Session} (h : sessionCheck .reset w = .run) : w = .unreset ∨ w = .ready := by
  cases w <;> simp_all [sessionCheck]

/-- Execute is let run in Ready only (40_fetch_execute.md R93). -/
theorem execute_admitted {w : Session} (h : sessionCheck .execute w = .run) : w = .ready := by
  cases w <;> simp_all [sessionCheck]

/-! ### Execute -/

/-- The loop returns from every Ready session (60_exceptions.md R141). -/
theorem executeLoop_ready (fuel : Nat) {s : State} (hs : s.session = .ready) :
    ∃ t, executeLoop fuel s = .returned .unit t := by
  induction fuel generalizing s with
  | zero => exact ⟨s, rfl⟩
  | succ n ih =>
    simp only [executeLoop, step_ready_eq hs]
    split
    · exact ih (by simp [hs])
    · exact ⟨s, rfl⟩

theorem execute_ready (budget : Int) {s : State} (hs : s.session = .ready) :
    ∃ v t, execute budget s = .returned v t := by
  obtain ⟨t, ht⟩ := executeLoop_ready budget.toNat (s := s.setCycles budget) hs
  exact ⟨.int (budget - t.cycles), t.setCycles 0, by simp [execute, ht]⟩

/-- What every step keeps and the counter has no part in holds after an Execute that returns. -/
theorem execute_keeps {P : State → Prop} (hstep : ∀ {s t : State}, P s → step s = .next t → P t)
    (hcycles : ∀ {s : State} (c : Int), P s → P (s.setCycles c)) {budget : Int} {s t : State} {v : HostValue}
    (hs : P s) (h : execute budget s = .returned v t) : P t := by
  obtain ⟨w, u, hloop, rfl, -⟩ := execute_returned h
  exact hcycles 0 (executeLoop_keeps hstep (hcycles budget hs) hloop)

/-! ### What an operation that returns or faults leaves -/

theorem returned_of_ifFits {op : OpName} {k limit : Nat} {ok : HostOutcome} {v : HostValue} {t : State}
    (h : ifFits op k limit ok = .returned v t) : ok = .returned v t := by
  unfold ifFits at h
  split at h
  · exact h
  · cases h

theorem faulted_of_ifFits {op : OpName} {k limit : Nat} {ok : HostOutcome} {f : Fault} {t : State}
    (h : ifFits op k limit ok = .faulted f t) : ok = .faulted f t := by
  unfold ifFits at h
  split at h
  · exact h
  · cases h

theorem returned_of_orFault {α : Type} {r : Except Fault α} {s t : State} {ok : α → HostOutcome} {v : HostValue}
    (h : orFault r s ok = .returned v t) : ∃ a, ok a = .returned v t := by
  cases r with
  | ok a => exact ⟨a, h⟩
  | error f => cases h

/-- An access faults with the state it started from, the session Faulted. -/
theorem eq_raiseFault_of_orFault {α : Type} {r : Except Fault α} {s t : State} {val : α → HostValue}
    {leaves : α → State} {f : Fault} (h : orFault r s (fun a => .returned (val a) (leaves a)) = .faulted f t) :
    t = raiseFault f s := by
  cases r with
  | ok a => cases h
  | error g => cases h; rfl

/-- What an operation that returns can leave: the state of R35 after Reset, what Execute's loop leaves, one register or
the flags or the memory written, or no change. -/
inductive Leaves (p : Config.Params) (s : State) : HostOp → State → Prop where
  | reset : s.session = .unreset ∨ s.session = .ready → Leaves p s .reset (State.resetWith p s.diag)
  | execute {budget : Int} {v : HostValue} {t : State} :
      execute budget s = .returned v t → Leaves p s (.execute budget) t
  | register (r : RegName) (k : Nat) : Leaves p s (.writeReg r k) (s.writeReg r k)
  | flags {op : HostOp} (g : Flags) : op ≠ .reset → Leaves p s op (s.setFlags g)
  | memory {op : HostOp} (m : Memory) : op ≠ .reset → Leaves p s op (s.setMem m)
  | same {op : HostOp} : op ≠ .reset → Leaves p s op s

theorem leaves_of_returned {p : Config.Params} {op : HostOp} {s t : State} {v : HostValue}
    (h : perform p op s = .returned v t) : Leaves p s op t := by
  obtain ⟨hrun, h⟩ := admitted_of_returned h
  cases op with
  | reset => cases h; exact .reset (reset_admitted hrun)
  | execute budget => exact .execute h
  | writeReg r k => cases returned_of_ifFits h; exact .register r k
  | writeFlag f k => cases returned_of_ifFits h; exact .flags _ (by simp)
  | write addr k =>
    obtain ⟨m, hm⟩ := returned_of_orFault (returned_of_ifFits h)
    cases hm; exact .memory m (by simp)
  | writeWord c value addr =>
    obtain ⟨r, hr⟩ := returned_of_orFault h
    cases hr; exact .memory r.1 (by simp)
  | initialise => cases h; exact .memory _ (by simp)
  | read addr =>
    obtain ⟨b, hb⟩ := returned_of_orFault h
    cases hb; exact .same (by simp)
  | readReg r => cases h; exact .same (by simp)
  | readFlag f => cases h; exact .same (by simp)
  | readDiag => cases h; exact .same (by simp)
  | readFault =>
    simp only [performAdmitted, readFaultOp] at h
    split at h <;> cases h
    exact .same (by simp)

/-- A fault leaves the state before the operation, the session Faulted (60_exceptions.md R142). -/
theorem eq_raiseFault_of_faulted {p : Config.Params} {op : HostOp} {s t : State} {f : Fault}
    (h : perform p op s = .faulted f t) : t = raiseFault f s := by
  unfold perform at h
  split at h
  case h_2 => cases h; rfl
  case h_3 => cases h
  case h_1 hrun =>
    cases op with
    | execute budget =>
      obtain ⟨v, u, hu⟩ := execute_ready budget (execute_admitted hrun)
      cases hu.symm.trans h
    | read addr => exact eq_raiseFault_of_orFault h
    | write addr k => exact eq_raiseFault_of_orFault (faulted_of_ifFits h)
    | writeWord c value addr => exact eq_raiseFault_of_orFault h
    | writeReg r k => cases faulted_of_ifFits h
    | writeFlag g k => cases faulted_of_ifFits h
    | readFault =>
      simp only [performAdmitted, readFaultOp] at h
      split at h <;> cases h
    | reset | readReg | readFlag | initialise | readDiag => cases h

end Sys2Proof.Machine
end

section
/-! The tier 3 statements of spec/10_state.md: the index registers, the log, the contents before Reset, the lifecycle. -/

namespace Sys2Proof.Machine

/-! ### X and Y (R22, R23) -/

/-- Execute keeps X and Y, whatever its budget. -/
theorem execute_xy {budget : Int} {s t : State} {v : HostValue} (h : execute budget s = .returned v t) :
    t.x = s.x ∧ t.y = s.y :=
  execute_keeps (P := fun u => u.x = s.x ∧ u.y = s.y)
    (fun hu hstep => by rw [eq_execState_of_step hstep]; simpa using hu) (fun _ hu => hu) ⟨rfl, rfl⟩ h

/-- What a host operation leaves in X and Y. -/
theorem returned_xy {p : Config.Params} {op : HostOp} {s t : State} {v : HostValue}
    (h : perform p op s = .returned v t) :
    if op = .reset then t.x = 0 ∧ t.y = 0
    else ((∀ k, op ≠ .writeReg .x k) → t.x = s.x) ∧ ((∀ k, op ≠ .writeReg .y k) → t.y = s.y) := by
  cases leaves_of_returned h with
  | reset _ => exact ⟨rfl, rfl⟩
  | execute hx =>
    obtain ⟨hX, hY⟩ := execute_xy hx
    exact ⟨fun _ => hX, fun _ => hY⟩
  | register r k => cases r <;> simp [State.writeReg]
  | flags g hop => simp [hop]
  | memory m hop => simp [hop]
  | same hop => simp [hop]

theorem ldaZpX_a (zp : Byte) (s : State) :
    (execState (.ldaZpX zp) s).a = s.mem.get ((zp.toNat + s.x.toNat) % 256) := by
  simp [execState, loadedByte, State.peek, eaZpX_toNat]

theorem ldaAbsX_a (base : Word) (s : State) :
    (execState (.ldaAbsX base) s).a = s.mem.get ((base.toNat + s.x.toNat) % 65536) := by
  simp [execState, loadedByte, State.peek, eaIndexed_toNat]

theorem ldaAbsY_a (base : Word) (s : State) :
    (execState (.ldaAbsY base) s).a = s.mem.get ((base.toNat + s.y.toNat) % 65536) := by
  simp [execState, loadedByte, State.peek, eaIndexed_toNat]

theorem exec_with_x {i : Instr} (s : State) (v : Byte) (hzp : i.opcode ≠ .ldaZpX) (habs : i.opcode ≠ .ldaAbsX) :
    exec i { s with x := v } = mapNext (fun t => { t with x := v }) (exec i s) := by
  refine exec_comm (g := fun t => { t with x := v }) ?_
  cases i with
  | ldaZpX zp => exact absurd rfl hzp
  | ldaAbsX base => exact absurd rfl habs
  | _ => rfl

theorem exec_with_y {i : Instr} (s : State) (v : Byte) (habs : i.opcode ≠ .ldaAbsY) :
    exec i { s with y := v } = mapNext (fun t => { t with y := v }) (exec i s) := by
  refine exec_comm (g := fun t => { t with y := v }) ?_
  cases i with
  | ldaAbsY base => exact absurd rfl habs
  | _ => rfl

/-- A WriteReg of a value that fits writes that register (R33). -/
theorem perform_writeReg {p : Config.Params} {s : State} {r : RegName} {k : Nat} (hs : s.session = .ready)
    (hk : k < 2 ^ r.width) : perform p (.writeReg r k) s = .returned .unit (s.writeReg r k) := by
  rw [perform_ready hs (by simp)]
  exact if_pos hk

/-- Settles O26: an instruction's state is `execState`, whose X and Y are the old ones; each host operation is one of
`Leaves`, Execute by the induction over its loop. -/
theorem indexRegistersWrittenOnlyByResetAndHost : Obligations.IndexRegistersWrittenOnlyByResetAndHost := by
  refine ⟨fun i s t h => ?_, fun i s v => exec_with_x s v, fun i s v => exec_with_y s v, fun zp s t h => ?_,
    fun base s t h => ?_, fun base s t h => ?_, fun p op s t v h => returned_xy h,
    fun p s k hs hk => ⟨perform_writeReg hs hk, perform_writeReg hs hk⟩⟩
  · simp [eq_execState h]
  · rw [eq_execState h, ldaZpX_a]
  · rw [eq_execState h, ldaAbsX_a]
  · rw [eq_execState h, ldaAbsY_a]

/-! ### The diagnostic log (R32) -/

/-- `d'` is `d` with events of unrecognised bytes appended. -/
def GrowsByUnrecognised (d d' : List DiagEvent) : Prop :=
  ∃ events, d' = d ++ events ∧ ∀ e ∈ events, decodeOpcode e.opcode = .unrecognised

theorem GrowsByUnrecognised.refl (d : List DiagEvent) : GrowsByUnrecognised d d := ⟨[], by simp⟩

theorem GrowsByUnrecognised.trans {d d' d'' : List DiagEvent} (h : GrowsByUnrecognised d d')
    (h' : GrowsByUnrecognised d' d'') : GrowsByUnrecognised d d'' := by
  obtain ⟨events, rfl, he⟩ := h
  obtain ⟨events', rfl, he'⟩ := h'
  exact ⟨events ++ events', List.append_assoc .., fun e hmem => (List.mem_append.1 hmem).elim (he e) (he' e)⟩

theorem step_diag {s t : State} (h : step s = .next t) :
    t.diag = s.diag ++ if decodeOpcode (s.mem.get s.pc.toNat) = .unrecognised
      then [⟨s.pc, s.mem.get s.pc.toNat⟩] else [] := by
  rw [eq_execState_of_step h]
  split
  case isTrue hop =>
    have hfetch : fetchInstr s = .unrecognised (s.peek s.pc) := assemble_of_unrecognised hop ..
    rw [hfetch]; rfl
  case isFalse hop =>
    rw [List.append_nil]
    exact execState_diag_of_ne (by simpa [fetchInstr, State.peek] using hop) s

theorem step_grows {s t : State} (h : step s = .next t) : GrowsByUnrecognised s.diag t.diag := by
  refine ⟨_, step_diag h, fun e he => ?_⟩
  split at he
  · cases List.mem_singleton.1 he; assumption
  · cases he

theorem execute_grows {budget : Int} {s t : State} {v : HostValue} (h : execute budget s = .returned v t) :
    GrowsByUnrecognised s.diag t.diag :=
  execute_keeps (P := fun u => GrowsByUnrecognised s.diag u.diag) (fun hu hstep => hu.trans (step_grows hstep))
    (fun _ hu => hu) (.refl _) h

theorem returned_diag {p : Config.Params} {op : HostOp} {s t : State} {v : HostValue}
    (h : perform p op s = .returned v t) (hop : op.name ≠ .execute) : t.diag = s.diag := by
  cases leaves_of_returned h with
  | execute _ => exact absurd rfl hop
  | register r k => cases r <;> rfl
  | reset | flags | memory | same => rfl

theorem exec_with_diag (i : Instr) (s : State) (d : List DiagEvent) : exec i { s with diag := d ++ s.diag } =
    mapNext (fun t => { t with diag := d ++ t.diag }) (exec i s) := by
  refine exec_comm (g := fun t => { t with diag := d ++ t.diag }) ?_
  cases i with
  | unrecognised op => simp [execState, emitDiag, State.setDiag, State.fetched, State.setPc, State.setCycles]
  | _ => rfl

/-- Settles O32: a step appends what its opcode byte says, Execute by induction over its loop what its steps append, and
every other operation of `Leaves` nothing. -/
theorem diagnosticLogOnlyGrowsByUnrecognised : Obligations.DiagnosticLogOnlyGrowsByUnrecognised := by
  refine ⟨fun s t => step_diag, fun p op s t v h => ?_, exec_with_diag⟩
  by_cases hop : op.name = .execute
  · cases op with
    | execute budget =>
      obtain ⟨events, hdiag, hev⟩ := execute_grows (admitted_of_returned h).2
      exact ⟨events, hdiag, hev, fun hne => absurd rfl hne⟩
    | _ => cases hop
  · exact ⟨[], by simp [returned_diag h hop]⟩

/-! ### What the machine holds before its first Reset (R34) -/

/-- Settles O53, by induction on the operations: until a Reset makes the two machines one, each operation either stops both
runs alike or is a ReadDiag, which shows the empty log and changes nothing. -/
theorem contentsBeforeResetNeverShow : Obligations.ContentsBeforeResetNeverShow := by
  intro p ops s u hs hu
  obtain ⟨hs, hsd⟩ := hs
  obtain ⟨hu, hud⟩ := hu
  induction ops with
  | nil => simp [runOps, hs, hu, hsd, hud]
  | cons op ops ih =>
    obtain ⟨hresults, hrest⟩ := ih
    simp only [runOps_cons]
    by_cases hr : op.name = .reset
    · cases HostOp.name_eq_reset.1 hr
      simp [perform_reset p (.inl hs), perform_reset p (.inl hu), hsd, hud]
    · by_cases hd : op.name = .readDiag
      · cases HostOp.name_eq_readDiag.1 hd
        simp only [perform_readDiag, hsd, hud, hresults, true_and]
        exact hrest
      · by_cases hf : op.name = .readFault
        · cases HostOp.name_eq_readFault.1 hf
          simp [perform_readFault_of_unreset p hs, perform_readFault_of_unreset p hu, hs, hu, hsd, hud]
        · simp [perform_of_unreset p hs hr hd hf, perform_of_unreset p hu hr hd hf, hsd, hud]

/-! ### The lifecycle (R31) -/

theorem execute_session {budget : Int} {s t : State} {v : HostValue} (h : execute budget s = .returned v t) :
    t.session = s.session :=
  execute_keeps (P := fun u => u.session = s.session)
    (fun hu hstep => by rw [eq_execState_of_step hstep, execState_session, hu]) (fun _ hu => hu) rfl h

theorem returned_session {p : Config.Params} {op : HostOp} {s t : State} {v : HostValue}
    (h : perform p op s = .returned v t) :
    (op = .reset → t.session = .ready ∧ (s.session = .unreset ∨ s.session = .ready)) ∧
    (op ≠ .reset → t.session = s.session) := by
  cases leaves_of_returned h with
  | reset hs => exact ⟨fun _ => ⟨rfl, hs⟩, fun hop => absurd rfl hop⟩
  | execute hx => exact ⟨nofun, fun _ => execute_session hx⟩
  | register r k => exact ⟨nofun, fun _ => by cases r <;> rfl⟩
  | flags g hop => exact ⟨fun h => absurd h hop, fun _ => rfl⟩
  | memory m hop => exact ⟨fun h => absurd h hop, fun _ => rfl⟩
  | same hop => exact ⟨fun h => absurd h hop, fun _ => rfl⟩

/-- No run moves a Faulted session (60_exceptions.md R142). -/
theorem runOps_of_faulted (p : Config.Params) (ops : List HostOp) {s : State} {f : Fault}
    (hs : s.session = .faulted f) : (runOps p ops s).final = s := by
  induction ops with
  | nil => rfl
  | cons op ops ih =>
    rw [runOps_cons]
    by_cases hd : op.name = .readDiag
    · cases HostOp.name_eq_readDiag.1 hd
      simpa only [perform_readDiag] using ih
    · by_cases hf : op.name = .readFault
      · cases HostOp.name_eq_readFault.1 hf
        simpa only [perform_readFault_of_faulted p hs] using ih
      · simp only [perform_of_faulted p hs hd hf]

/-- Settles O56: the session after a return is read off `Leaves`, a fault leaves `raiseFault`, a run from a Faulted session
is an induction on its operations, and no instruction's state depends on the session. -/
theorem sessionLifecycle : Obligations.SessionLifecycle := by
  refine ⟨fun p op s t v => returned_session, fun p op s t f h => ?_, fun p ops s f => runOps_of_faulted p ops,
    fun i s w => exec_comm (g := fun t => { t with session := w }) ?_⟩
  · rw [eq_raiseFault_of_faulted h]; rfl
  · cases i <;> rfl

end Sys2Proof.Machine
end

section
/-! The tier 2 statements of spec/10_state.md: flags, SP, PC, what no instruction reads, and memory as data. -/

namespace Sys2Proof.Machine

/-! ### The flags (R27) -/

theorem Flags.get_set (f : Flags) (name other : FlagName) (v : Bool) :
    (f.set name v).get other = if other = name then v else f.get other := by
  cases name <;> cases other <;> rfl

theorem Flags.get_zero (f : FlagName) : Flags.zero.get f = false := by cases f <;> rfl

/-- A WriteFlag writes its flag (70_reset_and_hazards.md R174). -/
theorem perform_writeFlag (p : Config.Params) {s : State} (hs : s.session = .ready) (f : FlagName) (b : Bool) :
    perform p (.writeFlag f b.toNat) s = .returned .unit (s.setFlags (s.flags.set f b)) := by
  rw [perform_ready hs (by simp)]
  cases b <;> rfl

/-- Settles O25: the flags an instruction leaves are its load's update of the old ones, or the old ones. -/
theorem flagsWrittenOnlyAsTabled : Obligations.FlagsWrittenOnlyAsTabled := by
  refine ⟨fun i s t h => ?_, fun i s t g h => ?_, fun p s hs => ⟨?_, fun f b => ?_⟩⟩
  · cases eq_execState h
    rw [execState_flags]
    cases isLoad i <;> simp [BitVec.msb_eq_getLsbD_last, beq_eq_decide]
  · cases eq_execState h
    rw [exec_eq]
    cases i <;> rfl
  · exact ⟨_, perform_reset p (.inr hs), Flags.get_zero⟩
  · exact ⟨_, perform_writeFlag p hs f b, rfl, by simp [Flags.get_set], fun g hg => by simp [Flags.get_set, hg]⟩

/-! ### SP (R26) -/

theorem stackAddr_eq (sp : Byte) : stackAddr sp = 0x0100 ||| sp.setWidth 16 := rfl

/-- Settles O27: `execState` writes SP in the call's case only, and reads it there only. -/
theorem stackPointerUsedOnlyByTheCall : Obligations.StackPointerUsedOnlyByTheCall := by
  refine ⟨stackAddr_eq, fun i s t h => ?_, fun i s v hop => exec_comm (g := fun t => { t with sp := v }) ?_,
    fun p s k hs hk => ⟨⟨_, perform_reset p (.inr hs), rfl⟩, perform_writeReg hs hk⟩⟩
  · rw [eq_execState h, execState_sp]
    split
    · simp [BitVec.toNat_sub, Nat.add_comm]
    · rfl
  · cases i with
    | jsr target => exact absurd rfl hop
    | _ => rfl

/-! ### PC (R25) -/

theorem execState_pc_of_ne {i : Instr} (h : i.opcode ≠ .jsr) (s : State) :
    (execState i s).pc = s.pc + BitVec.ofNat 16 i.length := by
  cases i with
  | jsr target => exact absurd rfl h
  | _ => rfl

/-- Settles O28: every instruction but the call passes its own bytes, as many as its encoding has. -/
theorem programCounterAdvance : Obligations.ProgramCounterAdvance := by
  intro i s t h
  rw [eq_execState h]
  refine ⟨fun target hi => by subst hi; rfl, fun hop => ?_⟩
  rw [execState_pc_of_ne hop, length_encode, BitVec.toNat_add, BitVec.toNat_ofNat, Nat.add_mod_mod]

/-! ### What no instruction reads (R21, R27, R31, R32) -/

/-- Settles O29: two states that agree on the rest differ in A, the flags, the session and the log, which no field compared
of `execState` depends on. -/
theorem instructionsReadNoAccumulatorFlagSessionOrLog : Obligations.InstructionsReadNoAccumulatorFlagSessionOrLog := by
  intro i s u hpc hsp hx hy hmem hcycles
  refine ⟨_, _, exec_eq i s, exec_eq i u, ?_⟩
  obtain ⟨pc, sp, a, x, y, flags, mem, session, diag, cycles⟩ := s
  obtain ⟨pc', sp', a', x', y', flags', mem', session', diag', cycles'⟩ := u
  dsimp only at hpc hsp hx hy hmem hcycles
  subst hpc hsp hx hy hmem hcycles
  cases i with
  | jsr target => exact ⟨rfl, rfl, rfl, rfl, rfl, rfl, nofun⟩
  | unrecognised op => exact ⟨rfl, rfl, rfl, rfl, rfl, rfl, nofun⟩
  | _ => exact ⟨rfl, rfl, rfl, rfl, rfl, rfl, fun _ => ⟨rfl, rfl, rfl⟩⟩

/-! ### Memory as data (R20, 20_memory.md R40) -/

theorem Memory.get_head (c : Host.Cell) (rest : Memory) : Memory.get (c :: rest) c.1 = c.2 := if_pos rfl

theorem Memory.head_ne_unwritten {c : Host.Cell} {rest : Memory} (h : Memory.wf (c :: rest)) :
    c.2 ≠ Memory.unwritten := (h.2 c (by simp)).2

/-- A byte that reads as written lies at or above the lowest listed address. -/
theorem Memory.head_le_of_get_ne {c : Host.Cell} {rest : Memory} (h : Memory.wf (c :: rest)) {addr : Nat}
    (hget : Memory.get (c :: rest) addr ≠ Memory.unwritten) : c.1 ≤ addr := by
  by_contra hlt
  refine hget (Memory.get_of_lt fun d hd => ?_)
  rcases List.mem_cons.1 hd with rfl | hd
  · omega
  · have := Memory.lt_of_wf_cons h d hd; omega

/-- The bytes past the first listed one read as they do with it taken away. -/
theorem Memory.get_tail {c : Host.Cell} {rest : Memory} (h : Memory.wf (c :: rest)) (addr : Nat) :
    Memory.get rest addr = if addr = c.1 then Memory.unwritten else Memory.get (c :: rest) addr := by
  split
  case isTrue heq => exact Memory.get_of_lt (heq ▸ Memory.lt_of_wf_cons h)
  case isFalse hne => exact (if_neg (Ne.symm hne)).symm

/-- Settles O43, by induction on the two lists together: the lowest listed address of each reads as written in the other,
so the heads are one cell, and the tails read alike. -/
theorem equalBytesAreEqualMemories : Obligations.EqualBytesAreEqualMemories := by
  intro m
  induction m with
  | nil =>
    intro m' _ hm' h
    cases m' with
    | nil => rfl
    | cons c rest => exact absurd ((h c.1).trans (Memory.get_head c rest)).symm (Memory.head_ne_unwritten hm')
  | cons c rest ih =>
    intro m' hm hm' h
    cases m' with
    | nil => exact absurd ((Memory.get_head c rest).symm.trans (h c.1)) (Memory.head_ne_unwritten hm)
    | cons d rest' =>
      have hdc : d.1 ≤ c.1 := Memory.head_le_of_get_ne hm' (by
        rw [← h, Memory.get_head]; exact Memory.head_ne_unwritten hm)
      have hcd : c.1 ≤ d.1 := Memory.head_le_of_get_ne hm (by
        rw [h, Memory.get_head]; exact Memory.head_ne_unwritten hm')
      have haddr : c.1 = d.1 := Nat.le_antisymm hcd hdc
      have hbyte : c.2 = d.2 := by rw [← Memory.get_head c rest, h, haddr, Memory.get_head]
      have hrest : rest = rest' := ih rest' (Memory.wf_tail hm) (Memory.wf_tail hm') fun addr => by
        rw [Memory.get_tail hm, Memory.get_tail hm', h, haddr]
      rw [Prod.ext haddr hbyte, hrest]

end Sys2Proof.Machine
end

section
/-! The tier 1 statements of spec/10_state.md: Reset and what comes before it. -/

namespace Sys2Proof.Machine

theorem resetWith_inv (p : Config.Params) : (State.resetWith p []).Inv := ⟨Memory.wf_nil, by simp [State.resetWith]⟩

/-- Settles O33: the memory and the log of `State.resetWith` are empty, whatever the parameters. -/
theorem resetMeetsInvariant : Obligations.ResetMeetsInvariant := ⟨resetWith_inv Config.defaults, resetWith_inv⟩

/-- Settles O47: Reset leaves `State.resetWith` where the session check lets it run. -/
theorem resetGivesEveryFieldItsValue : Obligations.ResetGivesEveryFieldItsValue := by
  refine ⟨fun p s hs => ⟨_, perform_reset p hs, rfl, rfl, rfl, rfl, rfl, Flags.get_zero, Memory.get_nil, rfl, rfl, ?_⟩,
    fun p s f hs => perform_of_faulted p hs (by simp [HostOp.name]) (by simp [HostOp.name])⟩
  exact fun hcycles => hcycles.symm

/-- Settles O52: it is the session check's answer in Unreset. -/
theorem useBeforeResetFaults : Obligations.UseBeforeResetFaults :=
  fun p _ _ hs hr hd hf => perform_of_unreset p hs hr hd hf

end Sys2Proof.Machine
end

section
/-! The rules of memory that spec/20_memory.md needs beside Sys2Proof/Laws/Memory.lean: the bounds check, the word written
little-endian, and what an instruction leaves in memory. -/

namespace Sys2Proof.Machine

/-! ### The bounds check (R41) -/

theorem memRead_of_lt {addr : Nat} (h : addr < 65536) (m : Memory) : memRead addr m = .ok (m.get addr) :=
  if_neg (Nat.not_le.2 h)

theorem memRead_of_ge {addr : Nat} (h : 65536 ≤ addr) (m : Memory) : memRead addr m = .error (.outOfBounds addr) :=
  if_pos h

theorem memWrite_of_lt {addr : Nat} (h : addr < 65536) (v : Byte) (m : Memory) :
    memWrite addr v m = .ok (m.set addr v) := if_neg (Nat.not_le.2 h)

theorem memWrite_of_ge {addr : Nat} (h : 65536 ≤ addr) (v : Byte) (m : Memory) :
    memWrite addr v m = .error (.outOfBounds addr) := if_pos h

/-- A MemWrite that answers is inside the space and is the plain write. -/
theorem memWrite_ok {addr : Nat} {v : Byte} {m m' : Memory} (h : memWrite addr v m = .ok m') :
    addr < 65536 ∧ m' = m.set addr v := by
  by_cases ha : addr < 65536
  · rw [memWrite_of_lt ha] at h
    cases h
    exact ⟨ha, rfl⟩
  · rw [memWrite_of_ge (Nat.not_lt.1 ha)] at h
    cases h

theorem Memory.get_set_self {m : Memory} (hm : m.wf) (addr : Nat) (v : Byte) : (m.set addr v).get addr = v := by
  simp [Memory.get_set hm]

theorem Memory.get_set_of_ne {m : Memory} (hm : m.wf) {addr other : Nat} (h : other ≠ addr) (v : Byte) :
    (m.set addr v).get other = m.get other := by
  simp [Memory.get_set hm, h]

/-- A read depends on the byte at its own address only. -/
theorem memRead_congr {m m' : Memory} {addr : Nat} (h : m.get addr = m'.get addr) : memRead addr m = memRead addr m' := by
  unfold memRead
  rw [h]

/-- Writing the byte already held changes nothing: the result reads alike everywhere, so it is the same list (R42). -/
theorem Memory.set_get_self {m : Memory} (hm : m.wf) {addr : Nat} (ha : addr < 65536) : m.set addr (m.get addr) = m := by
  refine equalBytesAreEqualMemories _ _ (Memory.set_wf hm ha _) hm fun other => ?_
  rw [Memory.get_set hm]
  split
  · simp [*]
  · rfl

/-! ### WriteWord (R44) -/

theorem writeWord_of_lt {addr : Nat} (h : addr < 65535) (cycles : Int) (value : Word) (m : Memory) :
    writeWord cycles value addr m =
      .ok ((m.set addr (loByte value)).set (addr + 1) (hiByte value), cycles - 2) := by
  simp [writeWord, Config.memCapacity, show ¬ 65536 ≤ addr by omega, show ¬ 65535 ≤ addr by omega]

/-- At the top byte of memory it is the second address that is out of bounds (92_eei_decisions.md D17). -/
theorem writeWord_at_top (cycles : Int) (value : Word) (m : Memory) :
    writeWord cycles value 0xFFFF m = .error (.outOfBounds 0x10000) := rfl

theorem writeWord_of_ge {addr : Nat} (h : 65536 ≤ addr) (cycles : Int) (value : Word) (m : Memory) :
    writeWord cycles value addr m = .error (.outOfBounds addr) := if_pos h

theorem lt_of_writeWord_ok {addr : Nat} {cycles : Int} {value : Word} {m : Memory} {r : Memory × Int}
    (h : writeWord cycles value addr m = .ok r) : addr < 65535 := by
  rcases Nat.lt_trichotomy addr 65535 with ha | rfl | ha
  · exact ha
  · cases h
  · rw [writeWord_of_ge ha] at h
    cases h

/-- What memory reads as after two bytes are written at adjacent addresses, the lower one first. -/
theorem Memory.get_set_set_succ {m : Memory} (hm : m.wf) {addr : Nat} (ha : addr < 65536) (lo hi : Byte) (b : Nat) :
    ((m.set addr lo).set (addr + 1) hi).get b =
      if b = addr then lo else if b = addr + 1 then hi else m.get b := by
  rw [Memory.get_set (Memory.set_wf hm ha lo), Memory.get_set hm]
  by_cases hb : b = addr
  · simp [hb]
  · simp [hb]

theorem loByte_add_hiByte (w : Word) : (loByte w).toNat + 256 * (hiByte w).toNat = w.toNat := by
  rw [loByte_toNat, hiByte_toNat]
  exact Nat.mod_add_div _ _

/-! ### What an instruction leaves in memory (R50) -/

theorem stackAddr_lt (sp : Byte) : (stackAddr sp).toNat < Config.memCapacity := (stackAddr sp).isLt

theorem callMemory_wf {s : State} (h : s.mem.wf) : (callMemory s).wf :=
  Memory.set_wf (Memory.set_wf h (stackAddr_lt _) _) (stackAddr_lt _) _

/-- A call writes the two bytes it pushes and no other. -/
theorem get_callMemory_of_ne {s : State} (h : s.mem.wf) {addr : Nat} (hhi : addr ≠ (stackAddr s.sp).toNat)
    (hlo : addr ≠ (stackAddr (s.sp - 1)).toNat) : (callMemory s).get addr = s.mem.get addr := by
  unfold callMemory
  rw [Memory.get_set_of_ne (Memory.set_wf h (stackAddr_lt _) _) hlo, Memory.get_set_of_ne h hhi]

theorem execState_mem (i : Instr) (s : State) :
    (execState i s).mem = if i.opcode = .jsr then callMemory (s.fetched 3) else s.mem := by cases i <;> rfl

theorem execState_mem_wf (i : Instr) {s : State} (h : s.mem.wf) : (execState i s).mem.wf := by
  rw [execState_mem]
  split
  · exact callMemory_wf h
  · exact h

/-- The stack page holds every address that SP can designate (92_eei_decisions.md D4). -/
theorem ne_stackAddr {addr : Nat} (h : addr < 0x0100 ∨ 0x0200 ≤ addr) (sp : Byte) : addr ≠ (stackAddr sp).toNat := by
  have := sp.isLt
  rw [stackAddr_toNat]
  omega

theorem get_execState_mem (i : Instr) {s : State} (hm : s.mem.wf) {addr : Nat} (h : addr < 0x0100 ∨ 0x0200 ≤ addr) :
    (execState i s).mem.get addr = s.mem.get addr := by
  rw [execState_mem]
  split
  · exact get_callMemory_of_ne (s := s.fetched 3) hm (ne_stackAddr h _) (ne_stackAddr h _)
  · rfl

end Sys2Proof.Machine
end

section
/-! The statements of spec/20_memory.md about a step: the invariant and the stack page. -/

namespace Sys2Proof.Machine

/-- Events of unrecognised bytes appended to a log of such events make a log of such events. -/
theorem GrowsByUnrecognised.all_unrecognised {d d' : List DiagEvent} (h : GrowsByUnrecognised d d')
    (hd : ∀ e ∈ d, decodeOpcode e.opcode = .unrecognised) : ∀ e ∈ d', decodeOpcode e.opcode = .unrecognised := by
  obtain ⟨events, rfl, hevents⟩ := h
  exact fun e he => (List.mem_append.1 he).elim (hd e) (hevents e)

/-- Settles O34: memory stays canonical because only the call writes it, inside the stack page; the log stays good because
a step appends events of unrecognised bytes only. -/
theorem stepKeepsInvariant : Obligations.StepKeepsInvariant := by
  intro s t hinv h
  obtain ⟨hmem, hdiag⟩ := hinv
  refine ⟨?_, (step_grows h).all_unrecognised hdiag⟩
  rw [eq_execState_of_step h]
  exact execState_mem_wf _ hmem

/-- Settles O23: a step leaves `execState`, whose memory is the old one or the old one with the call's two bytes pushed. -/
theorem stepWritesOnlyTheStackPage : Obligations.StepWritesOnlyTheStackPage := by
  intro s t addr hm h haddr
  rw [eq_execState_of_step h]
  exact get_execState_mem _ hm haddr

end Sys2Proof.Machine
end

section
/-! The statements of spec/20_memory.md about the memory operations and the host operations that reach memory. -/

namespace Sys2Proof.Machine

/-! ### The host's operations on memory in a Ready session (70_reset_and_hazards.md R174) -/

theorem perform_read (p : Config.Params) {s : State} (hs : s.session = .ready) (addr : Nat) :
    perform p (.read addr) s = orFault (memRead addr s.mem) s fun b => .returned (.nat b.toNat) s :=
  perform_ready hs (by simp)

theorem perform_write (p : Config.Params) {s : State} (hs : s.session = .ready) (addr : Nat) {k : Nat} (hk : k < 256) :
    perform p (.write addr k) s =
      orFault (memWrite addr (BitVec.ofNat 8 k) s.mem) s fun m => .returned .unit (s.setMem m) :=
  (perform_ready hs (by simp)).trans (if_pos hk)

/-- A byte written at a 16-bit address. -/
theorem perform_write_byte (p : Config.Params) {s : State} (hs : s.session = .ready) (addr : Word) (v : Byte) :
    perform p (.write addr.toNat v.toNat) s = .returned .unit (s.setMem (s.mem.set addr.toNat v)) := by
  rw [perform_write p hs _ v.isLt, BitVec.ofNat_toNat, BitVec.setWidth_eq, memWrite_word]
  rfl

theorem perform_writeWord (p : Config.Params) {s : State} (hs : s.session = .ready) (cycles : Int) (value : Word)
    (addr : Nat) : perform p (.writeWord cycles value addr) s =
      orFault (writeWord cycles value addr s.mem) s fun r => .returned (.int r.2) (s.setMem r.1) :=
  perform_ready hs (by simp)

/-- Settles O42: a write that answers is the plain one; that of the byte already held is the identity by the uniqueness of
the canonical form. -/
theorem memoryIsPlainStorage : Obligations.MemoryIsPlainStorage := by
  refine ⟨fun m m' addr v hm h => ?_, fun p s addr hs ha => ?_⟩
  · obtain ⟨ha, rfl⟩ := memWrite_ok h
    refine ⟨Memory.set_wf hm ha v, ?_, fun other hne => memRead_congr (Memory.get_set_of_ne hm hne v), fun hheld => ?_⟩
    · rw [memRead_of_lt ha, Memory.get_set_self hm]
    · rw [memRead_of_lt ha] at hheld
      cases hheld
      exact Memory.set_get_self hm ha
  · rw [perform_read p hs, memRead_of_lt ha]
    rfl

/-- Settles O45: one clause for each of the three answers of `writeWord`. -/
theorem writeWordWritesLittleEndian : Obligations.WriteWordWritesLittleEndian := by
  refine ⟨fun p s cycles value addr hs hm ha => ⟨_, ?_, Memory.get_set_set_succ hm (by omega) _ _⟩,
    fun p s cycles value hs => ?_, fun p s cycles value addr hs ha => ?_⟩
  · rw [perform_writeWord p hs, writeWord_of_lt ha]
    rfl
  · rw [perform_writeWord p hs, writeWord_at_top]
    rfl
  · rw [perform_writeWord p hs, writeWord_of_ge ha]
    rfl

/-- Settles O46: a WriteWord that answers lies below 65535, and the bytes there are the value's low and high byte. -/
theorem writeWordReadsBack : Obligations.WriteWordReadsBack := by
  intro m m' cycles c value addr hm h
  have ha := lt_of_writeWord_ok h
  rw [writeWord_of_lt ha] at h
  cases h
  have hget := Memory.get_set_set_succ hm (show addr < 65536 by omega) (loByte value) (hiByte value)
  refine ⟨loByte value, hiByte value, ?_, ?_, loByte_add_hiByte value, rfl⟩
  · rw [memRead_of_lt (by omega), hget, if_pos rfl]
  · rw [memRead_of_lt (by omega), hget, if_neg (by omega), if_pos rfl]

/-! ### A program the host writes (R55) -/

/-- What the core sees at a 16-bit address after a byte is written at another or the same one. -/
theorem State.peek_setMem_set (s : State) {m : Memory} (hm : m.wf) (addr other : Word) (v : Byte) :
    (s.setMem (m.set addr.toNat v)).peek other = if other = addr then v else (s.setMem m).peek other := by
  simp [State.peek, Memory.get_set hm, BitVec.toNat_inj]

/-- Three bytes written from PC on are the instruction at PC: modulo 2^16 their addresses are distinct. -/
theorem fetchInstr_of_written (s : State) {m : Memory} (hm : m.wf) (op b1 b2 : Byte) :
    fetchInstr (s.setMem (((m.set s.pc.toNat op).set (s.pc + 1).toNat b1).set (s.pc + 2).toNat b2)) =
      assemble op b1 b2 := by
  have hm1 := Memory.set_wf hm s.pc.isLt op
  have hm2 := Memory.set_wf hm1 (s.pc + 1).isLt b1
  simp only [fetchInstr, State.setMem_pc, s.peek_setMem_set hm2, s.peek_setMem_set hm1, s.peek_setMem_set hm]
  simp

/-- An operation that returns lets the run go on from the state it leaves (70_reset_and_hazards.md R177). -/
theorem runOps_of_returned {p : Config.Params} {op : HostOp} {ops : List HostOp} {s t : State} {v : HostValue}
    (h : perform p op s = .returned v t) :
    runOps p (op :: ops) s = { runOps p ops t with results := v :: (runOps p ops t).results } := by
  rw [runOps_cons, h]

/-- Settles O48: Reset leaves PC at RESET_PC and memory empty, each Write answers, and the fetch sees the three bytes. -/
theorem programWrittenAtResetPcRuns : Obligations.ProgramWrittenAtResetPcRuns := by
  intro p s op b1 b2 hs
  have hfetch := fetchInstr_of_written (State.resetWith p s.diag) initialise_wf op b1 b2
  refine ⟨_, ?_, rfl, (step_ready rfl).trans (congrArg (exec · _) hfetch)⟩
  rw [runOps_of_returned (perform_reset p hs), runOps_of_returned (perform_write_byte p rfl _ _),
    runOps_of_returned (perform_write_byte p rfl _ _), runOps_of_returned (perform_write_byte p rfl _ _)]
  rfl

/-- Settles O41: the two sides of the bounds check. -/
theorem byteOperationsAreBoundsChecked : Obligations.ByteOperationsAreBoundsChecked :=
  fun m _ v hm => ⟨fun ha => ⟨memRead_of_ge ha m, memWrite_of_ge ha v m⟩,
    fun ha => ⟨memRead_of_lt ha m, _, memWrite_of_lt ha v m, Memory.get_set_self hm _ v⟩⟩

/-- Settles O44: Initialise empties the list of written bytes, and a Reset that returns leaves `State.resetWith`. -/
theorem initialiseZeroesMemory : Obligations.InitialiseZeroesMemory := by
  refine ⟨fun p s hs => perform_ready hs (by simp), Memory.get_nil, fun p s t v h => ?_⟩
  cases leaves_of_returned h with
  | reset _ => exact ⟨Memory.get_nil, Eq.symm⟩
  | flags | memory | same => contradiction

/-- Settles O57: past the end both accesses answer OutOfBounds, which the host operation turns into a Faulted session. -/
theorem hostAccessPastMemoryFaults : Obligations.HostAccessPastMemoryFaults := by
  refine fun p s addr hs ha => ⟨?_, fun v hv => ?_⟩
  · rw [perform_read p hs, memRead_of_ge ha]
    rfl
  · rw [perform_write p hs addr hv, memWrite_of_ge ha]
    rfl

end Sys2Proof.Machine
end

section
/-! The statements of spec/30_encoding.md. Decoder and encoder meet in the bytes an opcode byte calls for: `encode_assemble`
says that the encoder writes them, `decode_eq_ok_iff` that the decoder answers on them and on nothing else. -/

namespace Sys2Proof.Machine

/-! ### The bytes of an instruction (R60 to R62) -/

/-- The opcode byte `op` and as many of `b1`, `b2` as its format has operand bytes: what `assemble op b1 b2` uses. -/
def instrBytes (op b1 b2 : Byte) : List Byte := op :: [b1, b2].take ((decodeOpcode op).format.length - 1)

/-- The encoder writes the bytes an instruction was assembled from: the row of R63 has no other opcode byte. -/
theorem encode_assemble (op b1 b2 : Byte) : encode (assemble op b1 b2) = instrBytes op b1 b2 := by
  have hcode := eq_code_of_decodeOpcode op
  cases h : decodeOpcode op <;>
    simp_all [opcodeTable, assemble, encode, instrBytes, Opcode.format, Format.length]

/-- Every well-formed instruction is assembled from an opcode byte and two bytes after it (R65). -/
theorem exists_assemble {i : Instr} (h : i.WellFormed) : ∃ op b1 b2, i = assemble op b1 b2 := by
  cases i with
  | ldaImm imm => exact ⟨0xA9, imm, 0, rfl⟩
  | ldaZp zp => exact ⟨0xA5, zp, 0, rfl⟩
  | ldaZpX zp => exact ⟨0xB5, zp, 0, rfl⟩
  | ldaAbs abs => exact ⟨0xAD, loByte abs, hiByte abs, congrArg Instr.ldaAbs (wordOfBytes_lo_hi abs).symm⟩
  | ldaAbsX base => exact ⟨0xBD, loByte base, hiByte base, congrArg Instr.ldaAbsX (wordOfBytes_lo_hi base).symm⟩
  | ldaAbsY base => exact ⟨0xB9, loByte base, hiByte base, congrArg Instr.ldaAbsY (wordOfBytes_lo_hi base).symm⟩
  | jsr target => exact ⟨0x20, loByte target, hiByte target, congrArg Instr.jsr (wordOfBytes_lo_hi target).symm⟩
  | unrecognised op => exact ⟨op, 0, 0, (assemble_of_unrecognised (eq_of_beq h) 0 0).symm⟩

/-- The decoder reads the bytes of an instruction and leaves what follows them. -/
theorem decode_instrBytes (op b1 b2 : Byte) (rest : List Byte) :
    decode (instrBytes op b1 b2 ++ rest) = .ok (assemble op b1 b2, rest) := by
  cases h : decodeOpcode op <;> simp [instrBytes, decode, assemble, h, Opcode.format, Format.length]

theorem operandCount_le_two (op : Opcode) : op.format.length - 1 ≤ 2 := by cases op <;> decide

/-- A list of at least `k ≤ 2` bytes splits into its first `k`, read with a default as the decoder reads them, and the
others. -/
theorem take_getD_append_drop {k : Nat} {bytes : List Byte} (hk : k ≤ 2) (hlen : k ≤ bytes.length) :
    [bytes.getD 0 0, bytes.getD 1 0].take k ++ bytes.drop k = bytes := by
  match k, bytes with
  | 0, _ => simp
  | 1, _ :: _ => simp
  | 2, _ :: _ :: _ => simp

/-- What the decoder answers, said once: the instruction its head bytes assemble to, and the bytes after those (R65). -/
theorem decode_eq_ok_iff {bytes : List Byte} {i : Instr} {rest : List Byte} : decode bytes = .ok (i, rest) ↔
    ∃ op b1 b2, i = assemble op b1 b2 ∧ bytes = instrBytes op b1 b2 ++ rest := by
  constructor
  · intro h
    cases bytes with
    | nil => cases h
    | cons op tail =>
      simp only [decode] at h
      split at h
      · cases h
      next hlen =>
        cases h
        have hsplit := take_getD_append_drop (operandCount_le_two (decodeOpcode op)) (Nat.not_lt.mp hlen)
        exact ⟨op, _, _, rfl, congrArg (op :: ·) hsplit.symm⟩
  · rintro ⟨op, b1, b2, rfl, rfl⟩
    exact decode_instrBytes op b1 b2 rest

/-- Settles O1: a well-formed instruction is assembled from some bytes, which the encoder writes and the decoder reads. -/
theorem decodeEncodeIsIdentity : Obligations.DecodeEncodeIsIdentity := by
  intro i rest h
  obtain ⟨op, b1, b2, rfl⟩ := exists_assemble h
  rw [encode_assemble, decode_instrBytes]

/-- Settles O2: the bytes that decode are those the answer was assembled from, which its encoding writes again. -/
theorem encodeDecodeIsIdentity : Obligations.EncodeDecodeIsIdentity := by
  intro bytes i rest h
  obtain ⟨op, b1, b2, rfl, rfl⟩ := decode_eq_ok_iff.mp h
  exact ⟨assemble_wf op b1 b2, by rw [encode_assemble]⟩

/-! ### The opcode byte alone (R65) -/

theorem assemble_length (op b1 b2 : Byte) : (assemble op b1 b2).length = (decodeOpcode op).format.length :=
  congrArg (·.format.length) (assemble_opcode op b1 b2)

theorem decode_three_drop_length (op b1 b2 : Byte) (rest : List Byte) : decode (op :: b1 :: b2 :: rest) =
    .ok (assemble op b1 b2, (op :: b1 :: b2 :: rest).drop (assemble op b1 b2).length) := by
  rw [decode_three, ← assemble_length op b1 b2, List.drop_cons (assemble op b1 b2).length_pos]

/-- Settles O3: both answers are assembled from the same opcode byte, which fixes the outcome and so the length. -/
theorem decoderIsTotalAndStateless : Obligations.DecoderIsTotalAndStateless := by
  intro op b1 b2 c1 c2 rest rest'
  have hle := operandCount_le_two (assemble op b1 b2).opcode
  refine ⟨assemble op b1 b2, assemble op c1 c2, decode_three_drop_length .., assemble_wf .., Instr.length_pos _,
    Nat.sub_le_iff_le_add.mp hle, decode_three_drop_length .., ?_, ?_, assemble_opcode ..⟩
  · rw [assemble_opcode, assemble_opcode]
  · rw [assemble_length, assemble_length]

/-! ### The opcode table (R62 to R64) -/

theorem wordOfBytes_eq_or (lo hi : Byte) : wordOfBytes lo hi = lo.setWidth 16 ||| hi.setWidth 16 <<< 8 :=
  BitVec.or_comm ..

/-- The seven bytes of the table (R63). -/
theorem decodeOpcode_ne_unrecognised_iff (op : Byte) : decodeOpcode op ≠ .unrecognised ↔
    op ∈ ([0xA9, 0xA5, 0xB5, 0xAD, 0xBD, 0xB9, 0x20] : List Byte) := by
  revert op; decide

/-- Settles O4: each row's bytes are those `decode_instrBytes` reads, its word operand in the spec's order. -/
theorem opcodeMapOfSevenBytes : Obligations.OpcodeMapOfSevenBytes := by
  refine ⟨fun b1 b2 rest => ?_, fun op => ?_, fun zp => ⟨rfl, ?_⟩⟩
  · rw [← wordOfBytes_eq_or]
    exact ⟨decode_instrBytes 0xA9 b1 0 rest, decode_instrBytes 0xA5 b1 0 rest, decode_instrBytes 0xB5 b1 0 rest,
      decode_instrBytes 0xAD b1 b2 rest, decode_instrBytes 0xBD b1 b2 rest, decode_instrBytes 0xB9 b1 b2 rest,
      decode_instrBytes 0x20 b1 b2 rest⟩
  · simp [decodeOpcode_ne_unrecognised_iff]
  · rw [eaZp_toNat]
    exact Nat.le_of_lt_succ zp.isLt

theorem decode_of_unrecognised {op : Byte} (h : decodeOpcode op = .unrecognised) (rest : List Byte) :
    decode (op :: rest) = .ok (.unrecognised op, rest) :=
  decode_eq_ok_iff.mpr ⟨op, 0, 0, (assemble_of_unrecognised h 0 0).symm,
    by simp [instrBytes, h, Opcode.format, Format.length]⟩

/-- The bytes that decode to a row, as numbers: a member `k < 256` is the byte `BitVec.ofNat 8 k` itself. -/
theorem listed_perm : ((List.range 256).filter fun k => !(decodeOpcode (BitVec.ofNat 8 k) == .unrecognised)).Perm
    [0xA9, 0xA5, 0xB5, 0xAD, 0xBD, 0xB9, 0x20] := by
  refine (List.perm_ext_iff_of_nodup (List.nodup_range.filter _) (by decide)).mpr fun k => ?_
  by_cases hk : k < 256
  · simp [hk, decodeOpcode_ne_unrecognised_iff, ← BitVec.toNat_inj, Nat.mod_eq_of_lt]
  · simp [hk]
    omega

/-- 249 is the 256 byte values less the seven of the table (R64). -/
theorem unlisted_count :
    ((List.range 256).filter fun k => decodeOpcode (BitVec.ofNat 8 k) == .unrecognised).length = 249 := by
  have hsplit := (List.range 256).length_eq_length_filter_add fun k => decodeOpcode (BitVec.ofNat 8 k) == .unrecognised
  rw [List.length_range, listed_perm.length_eq] at hsplit
  exact Nat.eq_sub_of_add_eq hsplit.symm

/-- Settles O5: a byte outside the table has no operand bytes; its no-op is the diagnostic after one FetchByte. -/
theorem unlistedBytesAreUnrecognised : Obligations.UnlistedBytesAreUnrecognised :=
  ⟨fun op rest h => ⟨decode_of_unrecognised (not_not.mp (mt (decodeOpcode_ne_unrecognised_iff op).mp h)) rest, rfl,
    fun s => exec_eq (.unrecognised op) s⟩, unlisted_count⟩

/-- Settles O6: each example is a row of the table, with its operand evaluated. -/
theorem specExampleWordsDecode : Obligations.SpecExampleWordsDecode :=
  ⟨decode_instrBytes 0xA9 0x84 0 [], decode_instrBytes 0xA5 0x42 0 [], decode_instrBytes 0xB5 0x80 0 [],
    decode_instrBytes 0xAD 0x80 0x44 [], decode_instrBytes 0xBD 0xFF 0x30 [], decode_instrBytes 0xB9 0x00 0x30 [],
    decode_instrBytes 0x20 0x00 0x80 [], decode_instrBytes 0xEA 0 0 [], decode_instrBytes 0xAD 0x42 0x00 []⟩

end Sys2Proof.Machine
end

section
/-! The cycle counter (spec/40_fetch_execute.md R80, spec/70_reset_and_hazards.md R179) and what a step answers in each
session (40_fetch_execute.md R93). -/

namespace Sys2Proof.Machine

/-! ### The counter -/

theorem indexedCost_eq_or (base : Word) (index : Byte) : indexedCost base index = 4 ∨ indexedCost base index = 5 := by
  unfold indexedCost
  split
  · exact .inr rfl
  · exact .inl rfl

/-- An instruction takes 1 to 6 cycles (R179). -/
theorem cost_bounds (i : Instr) (s : State) : 1 ≤ cost i s ∧ cost i s ≤ 6 := by
  cases i with
  | ldaAbsX base =>
    have h := indexedCost_eq_or base s.x
    simp only [cost]; omega
  | ldaAbsY base =>
    have h := indexedCost_eq_or base s.y
    simp only [cost]; omega
  | _ => simp [cost]

/-- An instruction debits its cost from whatever the counter holds, and nothing else it leaves depends on the counter. -/
theorem execState_setCycles (i : Instr) (s : State) (c : Int) :
    execState i (s.setCycles c) = (execState i s).setCycles (c - cost i s) := by
  cases i <;> rfl

@[simp] theorem execState_cycles (i : Instr) (s : State) : (execState i s).cycles = s.cycles - cost i s :=
  congrArg State.cycles (execState_setCycles i s s.cycles)

/-! ### The step by session -/

theorem step_of_unreset {s : State} (hs : s.session = .unreset) : step s = .fault (.useBeforeReset .execute) := by
  simp [step, sessionCheck, hs]

theorem step_of_faulted {s : State} {f : Fault} (hs : s.session = .faulted f) : step s = .refused (.sessionFaulted f) := by
  simp [step, sessionCheck, hs]

end Sys2Proof.Machine
end

section
/-! The tier 3 statements of spec/40_fetch_execute.md: the pass as the rules write it, and Execute as the loop of passes. -/

namespace Sys2Proof.Machine

/-! ### The pass as written (R85, R88) -/

theorem withByte_eq (s : State) (rest : Byte → State → Outcome) :
    withByte s rest = rest (s.peek s.pc) (s.fetched 1) := by
  simp [withByte]

theorem withWord_eq (s : State) (rest : Word → State → Outcome) :
    withWord s rest = rest (wordOfBytes (s.peek s.pc) (s.peek (s.pc + 1))) (s.fetched 2) := by
  simp [withWord]

/-- A rule's own FetchByte, the opcode fetched: the byte after the opcode. -/
theorem withByte_fetched (s : State) (rest : Byte → State → Outcome) :
    withByte (s.fetched 1) rest = rest (s.peek (s.pc + 1)) (s.fetched 2) := by
  rw [withByte_eq, State.fetched_fetched]; rfl

/-- A rule's own FetchWord, the opcode fetched: the two bytes after the opcode. -/
theorem withWord_fetched (s : State) (rest : Word → State → Outcome) :
    withWord (s.fetched 1) rest = rest (wordOfBytes (s.peek (s.pc + 1)) (s.peek (s.pc + 2))) (s.fetched 3) := by
  have hpc : s.pc + 1 + 1 = s.pc + 2 := BitVec.add_assoc ..
  rw [withWord_eq, State.fetched_fetched, ← hpc]; rfl

/-- The pass fetches the opcode, and only then selects the rule (R85). -/
theorem loopPass_eq (s : State) : loopPass s = dispatchPass (s.peek s.pc) s.pc (s.fetched 1) := withByte_eq s _

/-- Each rule, entered with the opcode fetched, does what the instruction assembled from the bytes at PC does. -/
theorem dispatchPass_fetched (s : State) (op : Byte) : dispatchPass op s.pc (s.fetched 1) =
    exec (assemble op (s.peek (s.pc + 1)) (s.peek (s.pc + 2))) s := by
  unfold dispatchPass assemble
  rw [decodeOpcode_eq]
  split_ifs with hImm hZp hZpX hAbs hAbsX hAbsY hJsr
  · exact withByte_fetched s _
  · exact withByte_fetched s _
  · exact withByte_fetched s _
  · exact withWord_fetched s _
  · exact withWord_fetched s _
  · exact withWord_fetched s _
  · exact withWord_fetched s _
  · rfl

/-- Settles O9: the pass fetches the opcode and then, in each rule, the operands that `fetchInstr` reads in advance. -/
theorem stepIsTheWrittenPass : Obligations.StepIsTheWrittenPass := by
  intro s hs
  calc step s = exec (fetchInstr s) s := step_ready hs
    _ = dispatchPass (s.peek s.pc) s.pc (s.fetched 1) := (dispatchPass_fetched s _).symm
    _ = loopPass s := (loopPass_eq s).symm

/-! ### The unbounded loop (R85 to R90) -/

theorem Passes.final_cycles {costs : List Int} {s t : State} (h : Passes costs s t) :
    t.cycles = s.cycles - costs.sum := by
  induction h with
  | stop => simp
  | pass _ hstep _ ih =>
    rw [ih, eq_execState_of_step hstep, execState_cycles, List.sum_cons]
    omega

/-- Each pass takes a cycle or more, so the loop makes no more passes than the counter holds (R90). -/
theorem Passes.length_le {costs : List Int} {s t : State} (h : Passes costs s t) :
    (costs.length : Int) ≤ max s.cycles 0 := by
  induction h with
  | stop => simp
  | @pass s _ _ _ hpos hstep _ ih =>
    have hcost := (cost_bounds (fetchInstr s) s).1
    rw [eq_execState_of_step hstep, execState_cycles] at ih
    rw [List.length_cons]
    omega

/-- The loop is deterministic. -/
theorem Passes.unique {costs costs' : List Int} {s t t' : State} (h : Passes costs s t) (h' : Passes costs' s t') :
    costs' = costs ∧ t' = t := by
  induction h generalizing costs' with
  | stop hstop =>
    cases h' with
    | stop => exact ⟨rfl, rfl⟩
    | pass hpos => omega
  | pass hpos hstep _ ih =>
    cases h' with
    | stop hstop => omega
    | pass _ hstep' hrest' =>
      cases hstep.symm.trans hstep'
      obtain ⟨rfl, rfl⟩ := ih hrest'
      exact ⟨rfl, rfl⟩

theorem Passes.final_cycles_nonpos {costs : List Int} {s t : State} (h : Passes costs s t) : t.cycles ≤ 0 := by
  induction h with
  | stop hstop => exact hstop
  | pass _ _ _ ih => exact ih

/-- A loop entered with a positive counter makes a last pass, before which the counter was still positive (R87). -/
theorem Passes.exists_last {costs : List Int} {s t : State} (h : Passes costs s t) (hpos : 0 < s.cycles) :
    ∃ init last, costs = init ++ [last] ∧ 0 < t.cycles + last ∧ last ≤ 6 := by
  induction h with
  | stop hstop => omega
  | @pass s u t costs _ hstep hrest ih =>
    by_cases hu : 0 < u.cycles
    · obtain ⟨init, last, rfl, hlast⟩ := ih hu
      exact ⟨cost (fetchInstr s) s :: init, last, rfl, hlast⟩
    · obtain ⟨rfl, rfl⟩ := (Passes.stop (Int.not_lt.mp hu)).unique hrest
      refine ⟨[], cost (fetchInstr s) s, rfl, ?_, (cost_bounds _ _).2⟩
      rw [eq_execState_of_step hstep, execState_cycles]
      omega

/-! ### Execute runs that loop (R85, R86) -/

/-- With no fewer passes allowed than the counter holds, the bounded loop is the unbounded one. -/
theorem executeLoop_passes (fuel : Nat) {s : State} (hs : s.session = .ready) (hfuel : s.cycles ≤ fuel) :
    ∃ costs t, Passes costs s t ∧ executeLoop fuel s = .returned .unit t := by
  induction fuel generalizing s with
  | zero => exact ⟨[], s, .stop hfuel, rfl⟩
  | succ n ih =>
    have hstep := step_ready_eq hs
    by_cases hpos : 0 < s.cycles
    · have hcost := (cost_bounds (fetchInstr s) s).1
      have hsession : (execState (fetchInstr s) s).session = .ready := by rw [execState_session, hs]
      have hless : (execState (fetchInstr s) s).cycles ≤ n := by rw [execState_cycles]; omega
      obtain ⟨costs, t, hpasses, hloop⟩ := ih hsession hless
      exact ⟨_, t, .pass hpos hstep hpasses, by simpa [executeLoop, hpos, hstep] using hloop⟩
    · exact ⟨[], s, .stop (Int.not_lt.mp hpos), by simp [executeLoop, hpos]⟩

/-- Execute returns from the state the loop stops in, with the counter put away. -/
theorem perform_execute_passes (p : Config.Params) {s : State} (budget : Int) (hs : s.session = .ready) :
    ∃ costs t, Passes costs (s.setCycles budget) t ∧
      perform p (.execute budget) s = .returned (.int (budget - t.cycles)) (t.setCycles 0) := by
  obtain ⟨costs, t, hpasses, hloop⟩ :=
    executeLoop_passes budget.toNat (s := s.setCycles budget) hs budget.self_le_toNat
  refine ⟨costs, t, hpasses, ?_⟩
  rw [perform_ready hs (by simp)]
  simp [performAdmitted, execute, hloop]

/-- Settles O38: the bounded loop is the unbounded one, which is deterministic and debits a cycle or more each pass. -/
theorem executeIsTheBudgetedLoop : Obligations.ExecuteIsTheBudgetedLoop := by
  intro p s budget hs
  obtain ⟨costs, t, hpasses, hreturn⟩ := perform_execute_passes p budget hs
  exact ⟨costs, t, hpasses, hreturn, hpasses.length_le, fun _ _ => hpasses.unique⟩

/-- Settles O39: the counter where the loop stops is the budget less the costs, at most 0, and more than 0 before the last
pass, which takes at most 6 cycles. -/
theorem executeResultBounds : Obligations.ExecuteResultBounds := by
  intro p s budget hs hbudget
  obtain ⟨costs, t, hpasses, hreturn⟩ := perform_execute_passes p budget hs
  obtain ⟨init, last, rfl, hlast, hsix⟩ := hpasses.exists_last hbudget
  have hsum : t.cycles = budget - (init ++ [last]).sum := hpasses.final_cycles
  have hstop := hpasses.final_cycles_nonpos
  exact ⟨init, last, _, t, hpasses, hreturn, rfl, by omega, by omega, by omega, by omega⟩

end Sys2Proof.Machine
end

section
/-! The tier 2 and tier 1 statements of spec/40_fetch_execute.md. -/

namespace Sys2Proof.Machine

/-- Settles O10: every 16-bit address is inside memory, so each fetch answers the byte there and passes it. -/
theorem fetchPrimitives : Obligations.FetchPrimitives := by
  intro s addr
  refine ⟨fetchByte_ok s, ?_, readByte_ok addr s, rfl⟩
  rw [fetchWord_ok, wordOfBytes_eq_or, ← s.peek_add s.pc 1]
  rfl

/-- Settles O30: the state an instruction leaves debits its cost from either counter. -/
theorem instructionsDoNotReadTheCounter : Obligations.InstructionsDoNotReadTheCounter := by
  intro i s c
  have hdebit : c - cost i s = c - (s.cycles - (execState i s).cycles) := by rw [execState_cycles]; omega
  calc exec i (s.setCycles c) = .next ((execState i s).setCycles (c - cost i s)) := by
        rw [exec_eq, execState_setCycles]
    _ = mapNext (fun t => t.setCycles (c - (s.cycles - t.cycles))) (exec i s) := by
        rw [hdebit, exec_eq]; rfl

/-- Settles O37: a counter of 0 or less stops the loop before its first pass. -/
theorem nonPositiveBudgetDoesNothing : Obligations.NonPositiveBudgetDoesNothing := by
  intro p s budget hs hbudget
  have hreturn : perform p (.execute budget) s = .returned (.int 0) (s.setCycles 0) := by
    obtain ⟨costs, t, hpasses, hreturn⟩ := perform_execute_passes p budget hs
    obtain ⟨rfl, rfl⟩ := (Passes.stop (s := s.setCycles budget) hbudget).unique hpasses
    rw [hreturn, State.setCycles_cycles, Int.sub_self]; rfl
  refine ⟨hreturn, fun hcycles => ?_⟩
  rw [hreturn, ← hcycles]; rfl

/-- The bytes at PC, their addresses in plain arithmetic (30_encoding.md R60). -/
theorem fetchBytes_eq (s : State) : fetchBytes s =
    [s.mem.get s.pc.toNat, s.mem.get ((s.pc.toNat + 1) % 65536), s.mem.get ((s.pc.toNat + 2) % 65536)] := by
  rw [← s.peek_add s.pc 1, ← s.peek_add s.pc 2]; rfl

/-- What the bytes at PC decode to is the instruction a step runs. -/
theorem eq_fetchInstr_of_decode {s : State} {i : Instr} {rest : List Byte} (h : decode (fetchBytes s) = .ok (i, rest)) :
    i = fetchInstr s := by
  cases (decode_three ..).symm.trans h; rfl

/-- Settles O7: the three bytes hold one instruction, the one `fetchInstr` assembles. -/
theorem stepRunsDecodedInstruction : Obligations.StepRunsDecodedInstruction := by
  intro s i rest hs h
  rw [← fetchBytes_eq] at h
  rw [eq_fetchInstr_of_decode h, step_ready hs]

/-- Settles O8: the session check of Execute, in Unreset and in Faulted. -/
theorem executeNeedsReadySession : Obligations.ExecuteNeedsReadySession :=
  ⟨fun _ hs => ⟨step_of_unreset hs, fun p _ => perform_of_unreset p hs nofun nofun nofun⟩,
    fun _ _ hs => ⟨step_of_faulted hs, fun p _ => perform_of_faulted p hs nofun nofun⟩⟩

end Sys2Proof.Machine
end

section
/-! The statements of spec/41_load.md. The six loads leave states of one shape, `exec_load`, and differ in the byte loaded,
its cost and the length alone; `step_ready_assemble` is the step at an opcode byte. -/

namespace Sys2Proof.Machine

/-! ### The state a load leaves (R100, R107) -/

/-- Bit 7 of a byte is its most significant bit (R100). -/
theorem setZN_eq (v : Byte) (f : Flags) : setZN v f = { f with z := decide (v = 0), n := v.msb } := by
  rw [BitVec.msb_eq_getLsbD_last, ← beq_eq_decide]; rfl

theorem execState_of_isLoad {i : Instr} (h : isLoad i = true) (s : State) : execState i s =
    loadValue (loadedByte i s) ((s.fetched i.length).setCycles (s.cycles - cost i s)) := by
  cases i with
  | jsr target => cases h
  | unrecognised op => cases h
  | _ => rfl

/-- A load's answer from its byte and its cost: A, Z, N, PC and the counter are all it writes. -/
theorem exec_load {i : Instr} {s : State} {v : Byte} {c : Int} (h : isLoad i = true) (hv : loadedByte i s = v)
    (hc : cost i s = c) : exec i s = .next { s with
      a := v, flags := { s.flags with z := decide (v = 0), n := v.msb }, pc := s.pc + BitVec.ofNat 16 i.length,
      cycles := s.cycles - c } := by
  rw [exec_eq, execState_of_isLoad h, hv, hc, ← setZN_eq]; rfl

/-- The cost of an indexed load, the page cross in plain arithmetic (R105, R106). -/
theorem indexedCost_eq (base : Word) (index : Byte) : indexedCost base index =
    if (base.toNat + index.toNat) % 65536 / 256 = base.toNat / 256 then 4 else 5 := by
  simp only [indexedCost, pageCross_iff, ite_not]

/-! ### The step at an opcode byte (30_encoding.md R60, R62) -/

/-- Where PC holds the byte `op`, a step runs what `op` assembles to with the two bytes after it. -/
theorem step_ready_assemble {s : State} {op : Byte} (hs : s.session = .ready) (hop : s.mem.get s.pc.toNat = op) :
    step s = exec (assemble op (s.mem.get ((s.pc.toNat + 1) % 65536)) (s.mem.get ((s.pc.toNat + 2) % 65536))) s := by
  rw [step_ready hs, ← hop, ← s.peek_add s.pc 1, ← s.peek_add s.pc 2]; rfl

/-- The same where `op` takes a word operand, its two bytes in the spec's order. -/
theorem step_ready_word {s : State} {op : Byte} {instr : Word → Instr} (hs : s.session = .ready)
    (hop : s.mem.get s.pc.toNat = op) (hword : ∀ b1 b2, assemble op b1 b2 = instr (wordOfBytes b1 b2)) :
    step s = exec (instr (s.mem.get ((s.pc.toNat + 1) % 65536) |>.setWidth 16 |>.or
      ((s.mem.get ((s.pc.toNat + 2) % 65536)).setWidth 16 <<< 8))) s := by
  rw [step_ready_assemble hs hop, hword, wordOfBytes_eq_or]; rfl

/-! ### The six addressing modes (R101 to R106) -/

/-- Settles O11: the operand is the byte loaded, and no data is read. -/
theorem ldaImmediateLoadsOperand : Obligations.LdaImmediateLoadsOperand :=
  ⟨fun _ _ => exec_load rfl rfl rfl, fun _ hs hop => step_ready_assemble hs hop⟩

theorem loadedByte_ldaZp (zp : Byte) (s : State) : loadedByte (.ldaZp zp) s = s.mem.get zp.toNat :=
  congrArg s.mem.get (eaZp_toNat zp)

/-- Settles O12: the address is the operand, zero-extended. -/
theorem ldaZeroPageLoadsByte : Obligations.LdaZeroPageLoadsByte :=
  ⟨fun zp s => exec_load rfl (loadedByte_ldaZp zp s) rfl, fun _ hs hop => step_ready_assemble hs hop⟩

/-- Settles O13: the address is the byte sum, and the cost has no carry in it. -/
theorem ldaZeroPageXLoadsByte : Obligations.LdaZeroPageXLoadsByte :=
  ⟨fun zp s _ hv => exec_load rfl ((ldaZpX_a zp s).trans hv) rfl, fun _ hs hop => step_ready_assemble hs hop⟩

/-- Settles O14: the address is the operand word. -/
theorem ldaAbsoluteLoadsByte : Obligations.LdaAbsoluteLoadsByte :=
  ⟨fun _ _ _ hv => exec_load rfl hv rfl, fun _ hs hop => step_ready_word hs hop fun _ _ => rfl⟩

/-- Settles O15: the address is the word sum, its wrap and its page cross those of `eaIndexed` and `indexedCost`. -/
theorem ldaAbsoluteXLoadsByte : Obligations.LdaAbsoluteXLoadsByte := by
  refine ⟨fun base s ea v hea hv => ?_, fun _ hs hop => step_ready_word hs hop fun _ _ => rfl⟩
  subst hea
  exact exec_load rfl ((ldaAbsX_a base s).trans hv) (indexedCost_eq base s.x)

/-- Settles O16: as for X, with the sum and the cost taken from Y. -/
theorem ldaAbsoluteYLoadsByte : Obligations.LdaAbsoluteYLoadsByte := by
  refine ⟨fun base s ea v hea hv => ?_, fun _ hs hop => step_ready_word hs hop fun _ _ => rfl⟩
  subst hea
  exact exec_load rfl ((ldaAbsY_a base s).trans hv) (indexedCost_eq base s.y)

/-! ### Every load (R100, R107) -/

/-- Settles O19: a load leaves `setZN` of its accumulator in the flags. -/
theorem loadsEndWithStatusUpdate : Obligations.LoadsEndWithStatusUpdate := by
  refine ⟨setZN_eq, fun i s t hload h => ?_⟩
  rw [eq_execState h, execState_flags, if_pos hload]

/-- Settles O20: every field named is untouched by the update that `exec_load` writes out, PC past the fetches. -/
theorem loadsWriteNothingElse : Obligations.LoadsWriteNothingElse := by
  intro i s t hload h
  cases (exec_load hload rfl rfl).symm.trans h
  exact ⟨rfl, rfl, rfl, rfl, rfl, rfl, rfl, rfl, fun _ => rfl, rfl, rfl, rfl⟩

end Sys2Proof.Machine
end

section
/-! The statements of spec/42_call.md: the state `execState` gives a call, with its memory written out and read back. -/

namespace Sys2Proof.Machine

/-! ### The bytes a call pushes (R120; their value and their addresses: 92_eei_decisions.md D4, D10) -/

/-- The pushed value is the address of the call's last byte. -/
theorem returnAddress_fetched (s : State) : returnAddress (s.fetched 3) = s.pc + 2 :=
  add_sub_assoc s.pc 3 1

/-- The low byte goes one below the high byte, inside the stack page. -/
theorem stackAddr_pred_toNat (sp : Byte) : (stackAddr (sp - 1)).toNat = 256 + (sp.toNat + 255) % 256 := by
  rw [stackAddr_toNat, BitVec.toNat_sub, Nat.add_comm sp.toNat]; rfl

theorem stackAddr_pred_ne (sp : Byte) : (stackAddr sp).toNat ≠ (stackAddr (sp - 1)).toNat := by
  have := sp.isLt
  rw [stackAddr_toNat, stackAddr_pred_toNat]
  omega

theorem get_callMemory_hi {s : State} (h : s.mem.wf) :
    (callMemory s).get (stackAddr s.sp).toNat = hiByte (returnAddress s) := by
  unfold callMemory
  rw [Memory.get_set_of_ne (Memory.set_wf h (stackAddr_lt _) _) (stackAddr_pred_ne _), Memory.get_set_self h]

theorem get_callMemory_lo {s : State} (h : s.mem.wf) :
    (callMemory s).get (stackAddr (s.sp - 1)).toNat = loByte (returnAddress s) :=
  Memory.get_set_self (Memory.set_wf h (stackAddr_lt _) _) _ _

/-! ### The call (R120) -/

/-- Settles O17: the state is `execState`'s, and of the two bytes pushed the second lies at another address than the first,
so both read back. -/
theorem jsrPushesAndJumps : Obligations.JsrPushesAndJumps := by
  refine ⟨fun target s => ?_, fun target s t hm h => ?_, fun _ hs hop => step_ready_word hs hop fun _ _ => rfl⟩
  · rw [exec_eq, ← returnAddress_fetched]; rfl
  · rw [eq_execState h, ← stackAddr_toNat, ← stackAddr_pred_toNat, ← returnAddress_fetched]
    exact ⟨get_callMemory_hi (s := s.fetched 3) hm, get_callMemory_lo (s := s.fetched 3) hm⟩

/-- Settles O21: memory keeps every byte but the two pushed, and no other field named is written by the call. -/
theorem jsrFrame : Obligations.JsrFrame := by
  intro target s t hm h
  rw [eq_execState h]
  exact ⟨rfl, rfl, rfl, rfl, rfl, rfl, fun _ => get_callMemory_of_ne (s := s.fetched 3) hm⟩

end Sys2Proof.Machine
end

section
/-! The statements of spec/43_unrecognised.md: the one state a no-op leaves, and the bytes that decode to it. -/

namespace Sys2Proof.Machine

/-- The no-op's answer: the log, PC and the counter are all it writes (R130). -/
theorem exec_unrecognised (op : Byte) (s : State) : exec (.unrecognised op) s =
    .next { s with pc := s.pc + 1, cycles := s.cycles - 1, diag := s.diag ++ [⟨s.pc, op⟩] } :=
  exec_eq (.unrecognised op) s

theorem decodeOpcode_of_unlisted {op : Byte} (h : op ∉ ([0xA9, 0xA5, 0xB5, 0xAD, 0xBD, 0xB9, 0x20] : List Byte)) :
    decodeOpcode op = .unrecognised :=
  not_not.mp (mt (decodeOpcode_ne_unrecognised_iff op).mp h)

/-- Settles O18: a byte outside the table assembles to its no-op with any two bytes after it. -/
theorem unrecognisedIsReportedNoOp : Obligations.UnrecognisedIsReportedNoOp := by
  refine ⟨exec_unrecognised, fun s hs hop => ?_⟩
  rw [step_ready_assemble hs rfl, assemble_of_unrecognised (decodeOpcode_of_unlisted hop)]

/-- Settles O22: no field named is among the three that `exec_unrecognised` writes. -/
theorem unrecognisedFrame : Obligations.UnrecognisedFrame := by
  intro op s t h
  cases (exec_unrecognised op s).symm.trans h
  exact ⟨rfl, rfl, rfl, rfl, rfl, rfl, fun _ => rfl⟩

end Sys2Proof.Machine
end

section
/-! The statements of spec/60_exceptions.md: where a fault comes from, what it leaves, the Faulted session, and Execute as a
single step. -/

namespace Sys2Proof.Machine

/-! ### Where a fault comes from (R141) -/

theorem memRead_error {addr : Nat} {m : Memory} {f : Fault} (h : memRead addr m = .error f) :
    65536 ≤ addr ∧ f = .outOfBounds addr := by
  by_cases ha : 65536 ≤ addr
  · cases (memRead_of_ge ha m).symm.trans h
    exact ⟨ha, rfl⟩
  · cases (memRead_of_lt (Nat.not_le.1 ha) m).symm.trans h

theorem memWrite_error {addr : Nat} {v : Byte} {m : Memory} {f : Fault} (h : memWrite addr v m = .error f) :
    65536 ≤ addr ∧ f = .outOfBounds addr := by
  by_cases ha : 65536 ≤ addr
  · cases (memWrite_of_ge ha v m).symm.trans h
    exact ⟨ha, rfl⟩
  · cases (memWrite_of_lt (Nat.not_le.1 ha) v m).symm.trans h

/-- WriteWord faults on its first address past memory, which at 0xFFFF is the second of the two (20_memory.md R44). -/
theorem writeWord_error {cycles : Int} {value : Word} {addr : Nat} {m : Memory} {f : Fault}
    (h : writeWord cycles value addr m = .error f) :
    (65536 ≤ addr ∧ f = .outOfBounds addr) ∨ (addr = 0xFFFF ∧ f = .outOfBounds 65536) := by
  rcases Nat.lt_trichotomy addr 65535 with ha | rfl | ha
  · cases (writeWord_of_lt ha cycles value m).symm.trans h
  · cases (writeWord_at_top cycles value m).symm.trans h
    exact .inr ⟨rfl, rfl⟩
  · cases (writeWord_of_ge ha cycles value m).symm.trans h
    exact .inl ⟨ha, rfl⟩

/-- The fault an operation takes is the one its access raised. -/
theorem error_of_orFault {α : Type} {r : Except Fault α} {s t : State} {val : α → HostValue} {leaves : α → State}
    {f : Fault} (h : orFault r s (fun a => .returned (val a) (leaves a)) = .faulted f t) : r = .error f := by
  cases r with
  | ok a => cases h
  | error g => cases h; rfl

/-- The operations that reach past memory, each with the address it reaches. -/
inductive ReachesPast : HostOp → Nat → Prop where
  | read {addr : Nat} : 65536 ≤ addr → ReachesPast (.read addr) addr
  | write {addr : Nat} (v : Nat) : 65536 ≤ addr → ReachesPast (.write addr v) addr
  | writeWord {addr : Nat} (c : Int) (v : Word) : 65536 ≤ addr → ReachesPast (.writeWord c v addr) addr
  | writeWordTop (c : Int) (v : Word) : ReachesPast (.writeWord c v 0xFFFF) 65536

/-- The session check raises UseBeforeReset only (R144). -/
theorem sessionCheck_fault {op : OpName} {w : Session} {f : Fault} (h : sessionCheck op w = .fault f) :
    f = .useBeforeReset op := by
  unfold sessionCheck at h
  cases w with
  | unreset => dsimp only at h; split_ifs at h; cases h; rfl
  | ready => dsimp only at h; split_ifs at h
  | faulted g => dsimp only at h; split_ifs at h

/-- Once the session check has let an operation run, it faults only by reaching past memory; Execute does not fault. -/
theorem reachesPast_of_admitted_faulted {p : Config.Params} {op : HostOp} {s t : State} {f : Fault}
    (hrun : sessionCheck op.name s.session = .run) (h : performAdmitted p op s = .faulted f t) :
    ∃ addr, f = .outOfBounds addr ∧ ReachesPast op addr := by
  cases op with
  | execute budget =>
    obtain ⟨v, u, hu⟩ := execute_ready budget (execute_admitted hrun)
    cases hu.symm.trans h
  | read addr =>
    obtain ⟨ha, rfl⟩ := memRead_error (error_of_orFault h)
    exact ⟨addr, rfl, .read ha⟩
  | write addr k =>
    obtain ⟨ha, rfl⟩ := memWrite_error (error_of_orFault (faulted_of_ifFits h))
    exact ⟨addr, rfl, .write k ha⟩
  | writeWord c value addr =>
    obtain ⟨ha, rfl⟩ | ⟨rfl, rfl⟩ := writeWord_error (error_of_orFault h)
    · exact ⟨addr, rfl, .writeWord c value ha⟩
    · exact ⟨65536, rfl, .writeWordTop c value⟩
  | writeReg r k => cases faulted_of_ifFits h
  | writeFlag g k => cases faulted_of_ifFits h
  | readFault =>
    simp only [performAdmitted, readFaultOp] at h
    split at h <;> cases h
  | reset | readReg | readFlag | initialise | readDiag => cases h

/-- The two sources of a fault: the session check before the first Reset, or an access past memory (R140). -/
theorem fault_cases {p : Config.Params} {op : HostOp} {s t : State} {f : Fault} (h : perform p op s = .faulted f t) :
    f = .useBeforeReset op.name ∨ ∃ addr, f = .outOfBounds addr ∧ ReachesPast op addr := by
  unfold perform at h
  split at h
  case h_1 hrun => exact .inr (reachesPast_of_admitted_faulted hrun h)
  case h_2 hcheck => cases h; exact .inl (sessionCheck_fault hcheck)
  case h_3 => cases h

/-- Settles O24: every instruction leaves `execState`, which keeps the session, and OutOfBounds has one source only, an
operation that reaches past memory. -/
theorem noInstructionFaults : Obligations.NoInstructionFaults := by
  refine ⟨fun i s => ⟨execState i s, exec_eq i s, execState_session i s⟩,
    fun s hs => ⟨_, step_ready_eq hs, by rw [execState_session, hs]⟩, fun p op s t addr h => ?_⟩
  obtain hreset | ⟨a, ha, hpast⟩ := fault_cases h
  · cases hreset
  · cases ha
    cases hpast with
    | read ha => exact ⟨ha, .inl rfl⟩
    | write v ha => exact ⟨ha, .inr (.inl ⟨v, rfl⟩)⟩
    | writeWord c v ha => exact ⟨ha, .inr (.inr (.inl ⟨c, v, rfl⟩))⟩
    | writeWordTop c v => exact ⟨le_rfl, .inr (.inr (.inr ⟨rfl, c, v, rfl⟩))⟩

/-! ### What a fault leaves (R142, R145) -/

/-- Settles O55: every fault leaves `raiseFault` of the state the operation started from, as Execute never faults. -/
theorem faultsArePrecise : Obligations.FaultsArePrecise :=
  fun _ _ _ _ _ h => eq_raiseFault_of_faulted h

/-- Settles O54: the session check in Faulted, operation by operation; the codes are `Fault.code`. -/
theorem faultedSessionIsFrozen : Obligations.FaultedSessionIsFrozen := by
  intro p op s f hs
  refine ⟨?_, ?_, fun hd hf => ?_⟩
  · rintro rfl
    exact perform_readDiag p s
  · rintro rfl
    rw [perform_readFault_of_faulted p hs]
    cases f <;> rfl
  · exact perform_of_faulted p hs (mt HostOp.name_eq_readDiag.1 hd) (mt HostOp.name_eq_readFault.1 hf)

/-! ### Execute as a single step (R153) -/

/-- A pass that uses up the counter is the loop's only one. -/
theorem Passes.single {s t : State} (hpos : 0 < s.cycles) (hstep : step s = .next t) (hstop : t.cycles ≤ 0) :
    Passes [cost (fetchInstr s) s] s t :=
  .pass hpos hstep (.stop hstop)

/-- Settles O40: an instruction takes a cycle or more, so one pass uses up a counter of 1, and the loop is deterministic. -/
theorem executeOneIsOneStep : Obligations.ExecuteOneIsOneStep := by
  intro p s hs
  have hstep : step (s.setCycles 1) = .next ((execState (fetchInstr s) s).setCycles (1 - cost (fetchInstr s) s)) :=
    (step_ready_eq (s := s.setCycles 1) hs).trans (congrArg _ (execState_setCycles (fetchInstr s) s 1))
  have hstop : 1 - cost (fetchInstr s) s ≤ 0 := by
    have hcost := (cost_bounds (fetchInstr s) s).1
    omega
  obtain ⟨costs, t, hpasses, hreturn⟩ := perform_execute_passes p 1 hs
  obtain ⟨rfl, rfl⟩ := (Passes.single Int.one_pos hstep hstop).unique hpasses
  refine ⟨_, hstep, ?_⟩
  rw [hreturn, State.setCycles_cycles, Int.sub_sub_self]
  rfl

end Sys2Proof.Machine
end

section
/-! The rules that the statements of spec/70_reset_and_hazards.md need beside those above: what each host write leaves, what
each host read answers, and the induction over a run. -/

namespace Sys2Proof.Machine

/-! ### The host's writes (R174, R175) -/

@[simp] theorem State.writeReg_flags (s : State) (r : RegName) (k : Nat) : (s.writeReg r k).flags = s.flags := by
  cases r <;> rfl

@[simp] theorem State.writeReg_mem (s : State) (r : RegName) (k : Nat) : (s.writeReg r k).mem = s.mem := by
  cases r <;> rfl

@[simp] theorem State.writeReg_session (s : State) (r : RegName) (k : Nat) : (s.writeReg r k).session = s.session := by
  cases r <;> rfl

@[simp] theorem State.writeReg_diag (s : State) (r : RegName) (k : Nat) : (s.writeReg r k).diag = s.diag := by
  cases r <;> rfl

@[simp] theorem State.writeReg_cycles (s : State) (r : RegName) (k : Nat) : (s.writeReg r k).cycles = s.cycles := by
  cases r <;> rfl

/-- A register holds the value written, modulo its width; every other register keeps its own (10_state.md R33). -/
theorem State.readReg_writeReg (s : State) (r q : RegName) (k : Nat) :
    (s.writeReg r k).readReg q = if q = r then k % 2 ^ r.width else s.readReg q := by
  cases r <;> cases q <;> simp [State.writeReg, State.readReg, RegName.width]

theorem RegName.width_of_ne_pc {r : RegName} (h : r ≠ .pc) : r.width = 8 := by
  cases r with
  | pc => exact absurd rfl h
  | _ => rfl

/-- A Write of a byte inside memory is the plain write. -/
theorem perform_write_of_lt (p : Config.Params) {s : State} (hs : s.session = .ready) {addr k : Nat}
    (ha : addr < 65536) (hk : k < 256) :
    perform p (.write addr k) s = .returned .unit (s.setMem (s.mem.set addr (BitVec.ofNat 8 k))) := by
  rw [perform_write p hs addr hk, memWrite_of_lt ha]
  rfl

theorem ifFits_of_ge {op : OpName} {k limit : Nat} (h : limit ≤ k) (ok : HostOutcome) :
    ifFits op k limit ok = .noStep (.valueTooWide op k) := if_neg (Nat.not_lt.2 h)

theorem perform_writeReg_of_ge (p : Config.Params) {s : State} (hs : s.session = .ready) {r : RegName} {k : Nat}
    (hk : 2 ^ r.width ≤ k) : perform p (.writeReg r k) s = .noStep (.valueTooWide .writeReg k) :=
  (perform_ready hs (by simp)).trans (ifFits_of_ge hk _)

theorem perform_writeFlag_of_ge (p : Config.Params) {s : State} (hs : s.session = .ready) (f : FlagName) {k : Nat}
    (hk : 2 ≤ k) : perform p (.writeFlag f k) s = .noStep (.valueTooWide .writeFlag k) :=
  (perform_ready hs (by simp)).trans (ifFits_of_ge hk _)

theorem perform_write_of_wide (p : Config.Params) {s : State} (hs : s.session = .ready) (addr : Nat) {k : Nat}
    (hk : 256 ≤ k) : perform p (.write addr k) s = .noStep (.valueTooWide .write k) :=
  (perform_ready hs (by simp)).trans (ifFits_of_ge hk _)

/-! ### The host's reads (R174) -/

theorem perform_readReg (p : Config.Params) {s : State} (hs : s.session = .ready) (r : RegName) :
    perform p (.readReg r) s = .returned (.nat (s.readReg r)) s := perform_ready hs (by simp)

theorem perform_readFlag (p : Config.Params) {s : State} (hs : s.session = .ready) (f : FlagName) :
    perform p (.readFlag f) s = .returned (.nat (if s.flags.get f then 1 else 0)) s := by
  rw [perform_ready hs (by simp)]
  cases hf : s.flags.get f <;> simp [performAdmitted, readFlagOp, hf]

theorem perform_readFault_of_ready (p : Config.Params) {s : State} (hs : s.session = .ready) :
    perform p .readFault s = .noStep .noFaultRecorded := by
  simp [perform, HostOp.name, sessionCheck, hs]

/-! ### What a host operation keeps -/

/-- An access that returns is one that answered. -/
theorem ok_of_orFault {α : Type} {r : Except Fault α} {s t : State} {ok : α → HostOutcome} {v : HostValue}
    (h : orFault r s ok = .returned v t) : ∃ a, r = .ok a ∧ ok a = .returned v t := by
  cases r with
  | ok a => exact ⟨a, rfl, h⟩
  | error f => cases h

/-- Memory stays in canonical form whatever operation returns: only the three memory writes, Reset and Execute touch it. -/
theorem returned_mem_wf {p : Config.Params} {op : HostOp} {s t : State} {v : HostValue} (hm : s.mem.wf)
    (h : perform p op s = .returned v t) : t.mem.wf := by
  obtain ⟨-, h⟩ := admitted_of_returned h
  cases op with
  | reset | initialise => cases h; exact Memory.wf_nil
  | execute budget =>
    exact execute_keeps (P := fun u => u.mem.wf)
      (fun hu hstep => by rw [eq_execState_of_step hstep]; exact execState_mem_wf _ hu) (fun _ hu => hu) hm h
  | write addr k =>
    obtain ⟨m, hw, hm'⟩ := ok_of_orFault (returned_of_ifFits h)
    cases hm'; exact memWrite_wf hm hw
  | writeWord c value addr =>
    obtain ⟨r, hw, hr⟩ := ok_of_orFault h
    cases hr; exact writeWord_wf hm hw
  | writeReg r k => cases returned_of_ifFits h; simpa using hm
  | writeFlag f k => cases returned_of_ifFits h; exact hm
  | read addr =>
    obtain ⟨b, hb⟩ := returned_of_orFault h
    cases hb; exact hm
  | readReg | readFlag | readDiag => cases h; exact hm
  | readFault =>
    simp only [performAdmitted, readFaultOp] at h
    split at h <;> cases h
    exact hm

theorem returned_grows {p : Config.Params} {op : HostOp} {s t : State} {v : HostValue}
    (h : perform p op s = .returned v t) : GrowsByUnrecognised s.diag t.diag := by
  obtain ⟨-, hlog, -⟩ := diagnosticLogOnlyGrowsByUnrecognised
  obtain ⟨events, hdiag, hevents, -⟩ := hlog p op s t v h
  exact ⟨events, hdiag, hevents⟩

theorem execute_cycles {budget : Int} {s t : State} {v : HostValue} (h : execute budget s = .returned v t) :
    t.cycles = 0 := by
  obtain ⟨w, u, -, rfl, -⟩ := execute_returned h
  rfl

/-- Reset and Execute leave the counter 0, and no other operation writes it (40_fetch_execute.md R80). -/
theorem returned_cycles {p : Config.Params} {op : HostOp} {s t : State} {v : HostValue} (hc : s.cycles = 0)
    (h : perform p op s = .returned v t) : t.cycles = 0 := by
  cases leaves_of_returned h with
  | reset => rfl
  | execute hx => exact execute_cycles hx
  | register r k => simpa using hc
  | flags | memory | same => exact hc

/-- Packaged induction: what every operation keeps, returned or faulted, holds where a run ends. -/
theorem runOps_keeps {p : Config.Params} {P : State → Prop}
    (hreturned : ∀ {op : HostOp} {s t : State} {v : HostValue}, P s → perform p op s = .returned v t → P t)
    (hfaulted : ∀ {op : HostOp} {s t : State} {f : Fault}, P s → perform p op s = .faulted f t → P t)
    (ops : List HostOp) {s : State} (hs : P s) : P (runOps p ops s).final := by
  induction ops generalizing s with
  | nil => exact hs
  | cons op ops ih =>
    rw [runOps_cons]
    split
    case h_1 hreturn => exact ih (hreturned hs hreturn)
    case h_2 hfault => exact hfaulted hs hfault
    case h_3 => exact hs

end Sys2Proof.Machine
end

section
/-! The tier 3 statements of spec/70_reset_and_hazards.md: the invariant over a host operation and over a run. -/

namespace Sys2Proof.Machine

/-! ### One operation (R174) -/

/-- Settles O35: what returns keeps memory canonical and appends unrecognised bytes to the log only; a fault leaves the state
it started from, but for the session, which the invariant does not read. -/
theorem hostOperationsKeepInvariant : Obligations.HostOperationsKeepInvariant := by
  rintro p op s t ⟨hmem, hdiag⟩ (⟨v, h⟩ | ⟨f, h⟩)
  · exact ⟨⟨returned_mem_wf hmem h, (returned_grows h).all_unrecognised hdiag⟩, fun hc => returned_cycles hc h⟩
  · cases eq_raiseFault_of_faulted h
    exact ⟨⟨hmem, hdiag⟩, id⟩

/-! ### A run (R177) -/

/-- What holds all along a run from construction, in any session: the log names unrecognised bytes only, and a Ready state
has canonical memory and no counter left. Of the contents of an Unreset or a Faulted machine nothing is asked. -/
def State.OnRun (s : State) : Prop :=
  (∀ e ∈ s.diag, decodeOpcode e.opcode = .unrecognised) ∧ (s.session = .ready → s.mem.wf ∧ s.cycles = 0)

theorem State.Constructed.onRun {s : State} (h : s.Constructed) : s.OnRun := by
  obtain ⟨hsession, hdiag⟩ := h
  exact ⟨by simp [hdiag], fun hready => by cases hsession.symm.trans hready⟩

/-- Reset makes memory canonical whatever it held; any other operation that leaves a Ready session started from one. -/
theorem returned_onRun {p : Config.Params} {op : HostOp} {s t : State} {v : HostValue} (hrun : s.OnRun)
    (h : perform p op s = .returned v t) : t.OnRun := by
  obtain ⟨hdiag, hready⟩ := hrun
  refine ⟨(returned_grows h).all_unrecognised hdiag, fun ht => ?_⟩
  by_cases hop : op = .reset
  · subst hop
    cases (admitted_of_returned h).2
    exact ⟨Memory.wf_nil, rfl⟩
  · obtain ⟨-, hsession⟩ := returned_session h
    obtain ⟨hmem, hcycles⟩ := hready ((hsession hop).symm.trans ht)
    exact ⟨returned_mem_wf hmem h, returned_cycles hcycles h⟩

theorem faulted_onRun {p : Config.Params} {op : HostOp} {s t : State} {f : Fault} (hrun : s.OnRun)
    (h : perform p op s = .faulted f t) : t.OnRun := by
  obtain ⟨hdiag, -⟩ := hrun
  cases eq_raiseFault_of_faulted h
  exact ⟨hdiag, nofun⟩

/-- Settles O36, by induction on the run: every operation keeps `State.OnRun`, which in a Ready session is the statement. -/
theorem readyRunsMeetInvariant : Obligations.ReadyRunsMeetInvariant := by
  intro p ops s hs hready
  obtain ⟨hdiag, hmem⟩ := runOps_keeps returned_onRun faulted_onRun ops hs.onRun
  obtain ⟨hwf, hcycles⟩ := hmem hready
  exact ⟨⟨hwf, hdiag⟩, hcycles⟩

end Sys2Proof.Machine
end

section
/-! The tier 2 and tier 1 statements of spec/70_reset_and_hazards.md: the cost table and the host's reads and writes. -/

namespace Sys2Proof.Machine

/-- Settles O31: the counter falls by `cost`, whose page cross is that of plain arithmetic. -/
theorem costTable : Obligations.CostTable := by
  intro i s t h
  rw [eq_execState h, execState_cycles, Int.sub_sub_self]
  cases i with
  | ldaAbsX base => exact indexedCost_eq base s.x
  | ldaAbsY base => exact indexedCost_eq base s.y
  | _ => rfl

/-- Settles O50: a register read after a WriteReg is one of two cases, and a byte read after a Write likewise. -/
theorem hostWritesOneTarget : Obligations.HostWritesOneTarget := by
  refine ⟨fun p s r k hs hk => ⟨_, perform_writeReg hs hk, ?_, fun q hq => ?_, by simp⟩,
    fun p s addr k hs hm ha hk => ⟨_, perform_write_of_lt p hs ha hk, ?_, fun other hne => ?_⟩⟩
  · rw [State.readReg_writeReg, if_pos rfl, Nat.mod_eq_of_lt hk]
  · rw [State.readReg_writeReg, if_neg hq]
  · rw [Memory.get_set_self hm, BitVec.toNat_ofNat, Nat.mod_eq_of_lt hk]
  · exact Memory.get_set_of_ne hm hne _

/-- Settles O49: each read answers from the state it leaves, and the session check refuses a ReadFault without a fault. -/
theorem hostReadsChangeNothing : Obligations.HostReadsChangeNothing := by
  refine ⟨fun p s hs => ?_, perform_readDiag, fun p s hs => ?_⟩
  · have hreg := perform_readReg p hs
    have hflag := perform_readFlag p hs
    obtain ⟨-, hread⟩ := memoryIsPlainStorage
    exact ⟨hreg .pc, hreg .sp, hreg .a, hreg .x, hreg .y, hflag .c, hflag .z, hflag .i, hflag .d, hflag .b, hflag .v,
      hflag .n, fun addr ha => hread p s addr hs ha⟩
  · exact hs.elim (perform_readFault_of_unreset p) (perform_readFault_of_ready p)

/-- Settles O51: each target's width check answers before its write. -/
theorem hostRefusesWideValues : Obligations.HostRefusesWideValues := by
  refine fun p s k hs => ⟨fun hk => perform_writeReg_of_ge p hs (r := .pc) hk,
    fun hk r hr => perform_writeReg_of_ge p hs ?_,
    fun hk f => perform_writeFlag_of_ge p hs f hk, fun hk addr _ => perform_write_of_wide p hs addr hk⟩
  rw [RegName.width_of_ne_pc hr]
  exact hk

end Sys2Proof.Machine
end
